-- ==== Sys2Proof/Word.lean ====
section
/-! DEFINITION. The two word types of the block: the byte, the unit of every space (R51), and the 16-bit
word of lengths and checksums (R25, R26). Byte-order helpers stand in Machine/Operands.lean. -/

namespace Sys2Proof

/-- A byte: an unsigned 8-bit value, the smallest thing the block reads, writes or compares (R8, R51). -/
abbrev Byte := BitVec 8

/-- A 16-bit unsigned value: lengths, counts, checksums (R8, R25, R26). -/
abbrev Word := BitVec 16

end Sys2Proof
end

