-- ==== Sys2Proof/Config.lean ====
section
/-! DEFINITION. The configuration: the parameter table of R6 as a structure (its values stand in
Machine/Parameters.lean), and the free values the spec leaves unspecified. -/

namespace Sys2Proof

/-- The parameters of R6, one field a row of its table. No field is writable at run time (R7). -/
structure Config where
  /-- `CTL_SOF`, StartOfFrame (R85). -/
  ctlSof : Byte
  /-- `CTL_EOT`, EndOfTransmission (R85). -/
  ctlEot : Byte
  /-- `CTL_ACK`, Acknowledge (R85). -/
  ctlAck : Byte
  /-- `MT_COMMAND` (R86). -/
  mtCommand : Byte
  /-- `MT_RESPONSE` (R86). -/
  mtResponse : Byte
  /-- `MT_NOTIFICATION` (R86). -/
  mtNotification : Byte
  /-- `LEN_ESC`, the length escape byte (R87). -/
  lenEsc : Byte
  /-- `LEN_SHORT_MAX`, the largest length value sent as one byte (R120). -/
  lenShortMax : Nat
  /-- `LEN_MAX`, the largest supported length value (R96, R120). -/
  lenMax : Nat
  /-- `CK_SEED`, the seed of the checksum (R110). -/
  ckSeed : Word
  /-- `CK_BYTES`, the size of the checksum field in bytes (R89, R112). -/
  ckBytes : Nat
  /-- `QUEUE_CAP`, the capacity of the output queue in entries (R29, R190). -/
  queueCap : Nat
  /-- `SEQ_BITS`, the width of the sequence counter: it counts modulo 2 to that power (R20, R130). -/
  seqBits : Nat
  /-- `SEQ_RESET`, the sequence counter after reset: an OPEN parameter (D5). -/
  seqReset : Byte
  /-- `SEQ_RETURNS_OLD`, whether `NEXT_SEQ` returns the value before the increment: an OPEN parameter (D6). -/
  seqReturnsOld : Bool
  /-- `BUF_BYTES`, the size of the payload buffer (R28, D19). -/
  bufBytes : Nat
  /-- `ACK_MIN_BYTES`, the shortest input `ENC_ACK` accepts (R133, R134). -/
  ackMinBytes : Nat
  deriving DecidableEq, Repr

/-- FREE VALUE (log 2): what buffer index `index` reads as after `epoch` resets when nothing has been
written there since. R28, R32 and U6 leave it unspecified; no body, so nothing can rest on it. -/
opaque Config.unwrittenBuf (epoch index : Nat) : Byte

/-- FREE VALUE (log 3): the 8-bit working registers that the RESET event number `epoch` leaves
unspecified (R32, R240), told apart by `register`. -/
opaque Config.freeByte (epoch register : Nat) : Byte

/-- FREE VALUE (log 3): the same for the 16-bit working registers. -/
opaque Config.freeWord (epoch register : Nat) : Word

/-- FREE VALUE (log 3): the same for the one-bit working register `r_par`. -/
opaque Config.freeBit (epoch : Nat) : Bool

end Sys2Proof
end

