-- ==== Sys2Proof/Machine/Parameters.lean ====
section
/-! DEFINITION. The values this hardware takes for the parameters of R6. The source's literals are
unaudited (U1, log 6); `seqReset` and `seqReturnsOld` are the two OPEN parameters at their defaults
(logs 4 and 5). -/

namespace Sys2Proof

/-- The parameter table of R6 with its values. -/
def params : Config where
  ctlSof := 0x02
  ctlEot := 0x04
  ctlAck := 0x06
  mtCommand := 0xA0
  mtResponse := 0xA1
  mtNotification := 0xBB
  lenEsc := 0x82
  lenShortMax := 255
  lenMax := 65535
  ckSeed := 0x5725
  ckBytes := 2
  queueCap := 100
  seqBits := 8
  seqReset := 0x00
  seqReturnsOld := true
  bufBytes := 65535
  ackMinBytes := 3

end Sys2Proof
end

