-- ==== Sys2Proof/Machine/Operands.lean ====
section
/-! DEFINITION. The operand forms of the block: byte order of 16-bit quantities (R52 to R54), recognition
of the code values (R85 to R87), and the layout of a frame's bytes (R81 to R84). -/

namespace Sys2Proof

/-- The notation `(hi, lo)` in braces of R8: the 16-bit value whose high byte is `hi` and low byte `lo`. -/
def word (hi lo : Byte) : Word := hi ++ lo

/-- Bits 15 to 8 of a 16-bit value. -/
def hiByte (w : Word) : Byte := w.extractLsb' 8 8

/-- Bits 7 to 0 of a 16-bit value. -/
def loByte (w : Word) : Byte := w.extractLsb' 0 8

/-- The `CK_BYTES` bytes of a 16-bit value, low byte first: the checksum's order on the wire (R54). -/
def littleEndian (w : Word) : List Byte :=
  (List.range params.ckBytes).map fun k => w.extractLsb' (8 * k) 8

/-- The two bytes of a 16-bit value, high byte first: the extended length's order on the wire (R52). -/
def bigEndian (w : Word) : List Byte := [hiByte w, loByte w]

/-- The three recognised control values (R85). -/
def isControl (b : Byte) : Bool := b == params.ctlSof || b == params.ctlEot || b == params.ctlAck

/-- The three recognised message types (R86). -/
def isMessageType (b : Byte) : Bool :=
  b == params.mtCommand || b == params.mtResponse || b == params.mtNotification

/-- The bytes of a StartOfFrame frame with a one-byte length (R81): `region` is the `message_id` and the
payload, its size the length value; `ck` is the checksum value. -/
def sofShortBytes (mtype seq : Byte) (region : List Byte) (ck : Word) : List Byte :=
  params.ctlSof :: seq :: mtype :: BitVec.ofNat 8 region.length :: (region ++ littleEndian ck)

/-- The bytes of a StartOfFrame frame with the extended length (R82). -/
def sofExtBytes (mtype seq : Byte) (region : List Byte) (ck : Word) : List Byte :=
  params.ctlSof :: seq :: mtype :: params.lenEsc ::
    (bigEndian (BitVec.ofNat 16 region.length) ++ (region ++ littleEndian ck))

/-- The bytes of an EndOfTransmission or Acknowledge frame (R83, R84). -/
def pairFrameBytes (ctl mtype seq : Byte) (ck : Word) : List Byte :=
  ctl :: seq :: mtype :: littleEndian ck

end Sys2Proof
end

