-- ==== Sys2Proof/Machine/Checksum.lean ====
section
/-! DEFINITION. The checksum function: the batch form of R110, one streaming step of R111 and R151, and
the wire form of R112. -/

namespace Sys2Proof

/-- The batch form of R110 with the accumulator as an argument: big-endian words are folded in, and a last
byte without a partner is the high byte of a word whose low byte is zero. -/
def foldWords (acc : Word) : List Byte → Word
  | [] => acc
  | [last] => acc ^^^ word last 0x00
  | hi :: lo :: rest => foldWords (acc ^^^ word hi lo) rest

/-- `CKSUM(s)` (R110). -/
def cksum (s : List Byte) : Word := foldWords params.ckSeed s

/-- `CKSUM_BYTES(s)` (R112): the checksum in wire order, low byte first. -/
def cksumBytes (s : List Byte) : List Byte := littleEndian (cksum s)

/-- One step of the running checksum (R111, R151) on the accumulator: a byte at an even index (parity 0)
goes into the high half, a byte at an odd index into the low half. -/
def accStep (acc : Word) (par : Bool) (b : Byte) : Word :=
  if par then acc ^^^ word 0x00 b else acc ^^^ word b 0x00

/-- The running checksum over a byte string (R111): the accumulator and the parity bit after it. -/
def accRun : Word → Bool → List Byte → Word × Bool
  | acc, par, [] => (acc, par)
  | acc, par, b :: rest => accRun (accStep acc par b) (!par) rest

end Sys2Proof
end

