-- ==== Sys2Proof/Syntax.lean ====
section
/-! DEFINITION. The syntax: the reader's states (R21), the record types (R34, R35), and `Instr`, one
constructor per row of `spec/opcode_table.json`. -/

namespace Sys2Proof

/-- The eleven values of `rx_state` (R21). The value selects the rule that handles the next byte. -/
inductive RxState where
  | closed | seek | hdrSeq | hdrType | len0 | lenHi | lenLo | body | ckLo | ckHi | fault
  deriving DecidableEq, Repr

/-- `Frame` (R34), "the unit of communication". -/
structure Frame where
  control : Byte
  sequenceId : Byte
  messageType : Byte
  length : Word
  messageId : Option Byte
  payload : List Byte
  checksum : Word
  deriving DecidableEq, Repr

/-- `QueueEntry` (R35): a frame, or the sentinel, which carries no data. -/
inductive QueueEntry where
  | frameEntry (f : Frame)
  | sentinel
  deriving DecidableEq, Repr

/-- The instructions: one constructor per row of the opcode table. For the StartOfFrame formats `region` is
the `message_id` followed by the payload (its size is the length value, so an empty region is the degenerate
length 0 of R97), and `ck` is the checksum value the frame carries, right or wrong. -/
inductive Instr where
  /-- `SOF_SHORT.CMD` (R81). -/
  | sofShortCmd (seq : Byte) (region : List Byte) (ck : Word)
  /-- `SOF_EXT.CMD` (R82). -/
  | sofExtCmd (seq : Byte) (region : List Byte) (ck : Word)
  /-- `SOF_SHORT.RSP` (R81). -/
  | sofShortRsp (seq : Byte) (region : List Byte) (ck : Word)
  /-- `SOF_EXT.RSP` (R82). -/
  | sofExtRsp (seq : Byte) (region : List Byte) (ck : Word)
  /-- `SOF_SHORT.NTF` (R81). -/
  | sofShortNtf (seq : Byte) (region : List Byte) (ck : Word)
  /-- `SOF_EXT.NTF` (R82). -/
  | sofExtNtf (seq : Byte) (region : List Byte) (ck : Word)
  /-- `EOT.CMD` (R83). -/
  | eotCmd (seq : Byte) (ck : Word)
  /-- `EOT.RSP` (R83). -/
  | eotRsp (seq : Byte) (ck : Word)
  /-- `EOT.NTF` (R83). -/
  | eotNtf (seq : Byte) (ck : Word)
  /-- `ACK.CMD` (R84); `seq` is the echoed sequence id. -/
  | ackCmd (seq : Byte) (ck : Word)
  /-- `ACK.RSP` (R84). -/
  | ackRsp (seq : Byte) (ck : Word)
  /-- `ACK.NTF` (R84). -/
  | ackNtf (seq : Byte) (ck : Word)
  /-- `CTL_UNRECOGNISED` (R92): a byte in SEEK that is no control value. -/
  | ctlUnrecognised (b : Byte)
  /-- `MT_UNRECOGNISED` (R93): a control byte, a sequence id and an unrecognised message type. -/
  | mtUnrecognised (ctl seq mtype : Byte)
  /-- `CTL_SOF` (R85): the control byte of a StartOfFrame frame. -/
  | ctlSof
  /-- `CTL_EOT` (R85). -/
  | ctlEot
  /-- `CTL_ACK` (R85). -/
  | ctlAck
  /-- `MT_COMMAND` (R86): the message type byte of a command. -/
  | mtCommand
  /-- `MT_RESPONSE` (R86). -/
  | mtResponse
  /-- `MT_NOTIFICATION` (R86). -/
  | mtNotification
  /-- `LEN_ESC` (R87): the length escape at offset 3 of a StartOfFrame frame. -/
  | lenEsc
  /-- `CK_SEED` (R110): the seed of the checksum. -/
  | ckSeed
  /-- `CKSUM(s)` (R110). -/
  | cksum (s : List Byte)
  /-- `CKSUM_BYTES(s)` (R112). -/
  | cksumBytes (s : List Byte)
  /-- `LEN_ENC(n)` (R120). -/
  | lenEnc (n : Nat)
  /-- `LEN_DEC(s)` (R121). -/
  | lenDec (s : List Byte)
  /-- `NEXT_SEQ` (R130), internal to `ENC_CMD`. -/
  | nextSeq
  /-- `ENC_CMD(message_id, payload)` (R131). -/
  | encCmd (messageId : Byte) (payload : List Byte)
  /-- `ENC_ACK(f)` (R133); `f` is the raw bytes of the received frame. -/
  | encAck (f : List Byte)
  /-- `RX_BYTE.SEEK` (R153). -/
  | rxSeek (b : Byte)
  /-- `RX_BYTE.HDR_SEQ` (R154). -/
  | rxHdrSeq (b : Byte)
  /-- `RX_BYTE.HDR_TYPE` (R155). -/
  | rxHdrType (b : Byte)
  /-- `RX_BYTE.LEN0` (R156). -/
  | rxLen0 (b : Byte)
  /-- `RX_BYTE.LEN_HI` (R157). -/
  | rxLenHi (b : Byte)
  /-- `RX_BYTE.LEN_LO` (R158). -/
  | rxLenLo (b : Byte)
  /-- `RX_BYTE.BODY` (R159). -/
  | rxBody (b : Byte)
  /-- `RX_BYTE.CK_LO` (R160). -/
  | rxCkLo (b : Byte)
  /-- `RX_BYTE.CK_HI` (R161). -/
  | rxCkHi (b : Byte)
  /-- `POP` (R191). -/
  | pop
  /-- `OPEN` (R192). -/
  | openReader
  /-- `CLOSE` (R193). -/
  | closeReader
  /-- `SENTINEL` (R194). -/
  | sentinel
  /-- `RESET` (R240). -/
  | reset
  /-- `RX(s)` (R100): the bytes of `s`, one `RX_BYTE` each, in order. -/
  | rxString (s : List Byte)
  /-- `ENC_ACK_PAIR(seq, type)` (R100). -/
  | encAckPair (seq mtype : Byte)
  /-- `ACK_OF(F)` (R100). -/
  | ackOf (f : Frame)
  /-- `DRAIN` (R100): `POP` until the queue is empty. -/
  | drain
  deriving DecidableEq, Repr

end Sys2Proof
end

