-- ==== Sys2Proof/Machine/State.lean ====
section
/-! DEFINITION. The state: everything the spec gives the block (R20 to R30, R32), the model's own outputs
and inputs as plain data, the reasons a step can stop, and the state after reset. -/

namespace Sys2Proof.Machine

/-- The codes a reader event presents (R30, R210). Their numbers stand in Machine/Flags.lean. -/
inductive EventCode where
  | none | emit | sentinel | badMtype | badCksum | zeroLen | overflow
  deriving DecidableEq, Repr

/-- The errors an encoder reports to its caller (R210, R215, R216). -/
inductive ErrorCode where
  | ackOutOfRange | lengthTooLarge
  deriving DecidableEq, Repr

/-- What an operation hands to its caller (R31, R50 (2)): the model's own output, no state of the block. -/
inductive Result where
  /-- Nothing has been handed to a caller yet. -/
  | nothing
  /-- A byte string: `CKSUM_BYTES`, `LEN_ENC`, `ENC_CMD`, `ENC_ACK`. -/
  | bytes (s : List Byte)
  /-- A 16-bit value: `CKSUM`, `CK_SEED`. -/
  | value (w : Word)
  /-- A byte: `NEXT_SEQ`. -/
  | byte (b : Byte)
  /-- The pair of `LEN_DEC`: the length value and the bytes its field took. -/
  | length (n : Word) (taken : Nat)
  /-- `LEN_DEC` of a string too short for the form it announces: no value yet (R121, log 11). -/
  | needMore
  /-- The entries `POP` and `DRAIN` return, oldest first. -/
  | entries (es : List QueueEntry)
  /-- A refusal reported to the caller: no bytes, no change of the block's state (R13, R215, R216). -/
  | error (e : ErrorCode)
  deriving DecidableEq, Repr

/-- The agents of R11. -/
inductive Agent where
  | link | reader | consumer | producer | owner
  deriving DecidableEq, Repr

/-- One pending input (log 7): bytes the link holds and has not had consumed, or an operation an agent is
about to perform. -/
inductive Input where
  | bytes (s : List Byte)
  | call (a : Agent) (i : Instr)
  deriving DecidableEq, Repr

/-- The payload buffer (R28): the bytes written, by index, indices strictly rising. An index with no cell
has not been written since the last reset. -/
abbrev Memory := List Host.Cell

/-- The state of the block, and the model's own outputs and inputs (log 7, 19, 20). -/
structure State where
  /-- `seq_ctr` (R20). -/
  seqCtr : Byte
  /-- `rx_state` (R21). -/
  rxState : RxState
  /-- `open_flag` (R22). -/
  openFlag : Bool
  /-- `fault_overflow` (R23). -/
  faultOverflow : Bool
  /-- `r_ctl` (R24). -/
  rCtl : Byte
  /-- `r_seq` (R24). -/
  rSeq : Byte
  /-- `r_mtype` (R24). -/
  rMtype : Byte
  /-- `r_len` (R25). -/
  rLen : Word
  /-- `r_cnt` (R25). -/
  rCnt : Word
  /-- `r_acc` (R26). -/
  rAcc : Word
  /-- `r_par` (R26). -/
  rPar : Bool
  /-- `r_cklo` (R27). -/
  rCklo : Byte
  /-- `buf` (R28). -/
  buf : Memory
  /-- `queue`, oldest entry first (R29). -/
  queue : List QueueEntry
  /-- `rx_event`: the code of what the last reader event did (R30, D17). -/
  rxEvent : EventCode
  /-- The model's event history, newest first, without `EV_NONE` (R30, R225, log 19). -/
  eventLog : List EventCode
  /-- The model's output: what the last operation handed to its caller (log 20). -/
  result : Result
  /-- The model's output: the entries the consumer has popped, newest first (log 20). -/
  delivered : List QueueEntry
  /-- The model's own counter of `RESET` events, which selects free values (log 3). -/
  epoch : Nat
  /-- The model's own inputs: what the surroundings are about to do, in their order (log 7). -/
  inbox : List Input
  deriving DecidableEq, Repr

/-- The reasons the machine stops with a fault. -/
inductive Fault where
  /-- Raised by a write to a buffer index outside 0 to 65534, which the spec says does not exist (R28, R50);
  no reachable state does it (R33 (c)). Safe. Log 16. -/
  | bufIndexOutOfRange
  deriving DecidableEq, Repr

/-- The reasons a step has no meaning. -/
inductive Refusal where
  /-- Raised by `exec` for an instruction that has no meaning yet. Safe. -/
  | notModelled (mnemonic : String)
  /-- Raised by `step` when the surroundings have an agent perform an event that is not that agent's, which
  is outside the spec (R223, U11), or NEXT_SEQ, which is no event of any agent (R130). Safe. Logs 12, 15. -/
  | wrongParty
  deriving DecidableEq, Repr

/-- The outcome of an instruction or a step. -/
abbrev Out := Host.Outcome State Fault Refusal

/-- The machine right after reset: R32's values (R240, R241, D4); the working registers, which R32 leaves
unspecified, hold 0 (log 1), and the model's own fields are empty. -/
def State.reset : State where
  seqCtr := params.seqReset
  rxState := .closed
  openFlag := false
  faultOverflow := false
  rCtl := 0
  rSeq := 0
  rMtype := 0
  rLen := 0
  rCnt := 0
  rAcc := 0
  rPar := false
  rCklo := 0
  buf := []
  queue := []
  rxEvent := .none
  eventLog := []
  result := .nothing
  delivered := []
  epoch := 0
  inbox := []

end Sys2Proof.Machine
end

