-- ==== Sys2Proof/Machine/Flags.lean ====
section
/-! DEFINITION. The block's flag, its event output and the numeric codes (R23, R30, R210). -/

namespace Sys2Proof.Machine

/-- The number of an event code (R210). -/
def EventCode.number : EventCode → Nat
  | .none => 0
  | .emit => 1
  | .sentinel => 2
  | .badMtype => 3
  | .badCksum => 4
  | .zeroLen => 5
  | .overflow => 6

/-- The number of an error code (R210). -/
def ErrorCode.number : ErrorCode → Nat
  | .ackOutOfRange => 7
  | .lengthTooLarge => 8

/-- `Event(code)` (R10, R30): presents one code, and records it in the event history unless it is `EV_NONE`
(R225: a skipped byte is not logged). -/
def present (c : EventCode) (s : State) : State :=
  { s with rxEvent := c, eventLog := if c = .none then s.eventLog else c :: s.eventLog }

/-- Whether `RX_BYTE` can occur (R152): inside a frame always, in SEEK while the open flag is set. -/
def rxEnabled (s : State) : Bool :=
  match s.rxState with
  | .closed => false
  | .seek => s.openFlag
  | .hdrSeq => true
  | .hdrType => true
  | .len0 => true
  | .lenHi => true
  | .lenLo => true
  | .body => true
  | .ckLo => true
  | .ckHi => true
  | .fault => false

/-- Whether the reader is at a frame boundary and about to take a byte: `RX_BYTE` in SEEK (R152). -/
def atBoundary (s : State) : Bool := s.rxState == .seek && s.openFlag

/-- Whether the reader's iteration check finds the flag clear: `SENTINEL` is enabled (R194). -/
def sentinelEnabled (s : State) : Bool := s.rxState == .seek && !s.openFlag

/-- Whether the queue holds `QUEUE_CAP` entries (R161, R190, R194). -/
def queueFull (s : State) : Bool := s.queue.length == params.queueCap

end Sys2Proof.Machine
end

