-- ==== Sys2Proof/Machine/Length.lean ====
section
/-! DEFINITION. The length field: `LEN_ENC` (R120) and `LEN_DEC` (R121). -/

namespace Sys2Proof

/-- `LEN_ENC(n)` (R120): one byte up to 255, the escape and a big-endian 16-bit value up to 65535, and
nothing above, where the operation is refused to its caller (R216). -/
def lenEnc (n : Nat) : Option (List Byte) :=
  if n ≤ params.lenShortMax then some [BitVec.ofNat 8 n]
  else if n ≤ params.lenMax then some (params.lenEsc :: bigEndian (BitVec.ofNat 16 n))
  else none

/-- `LEN_DEC(s)` (R121): the length value and the number of bytes of the field; nothing where `s` is too
short for the form it announces. -/
def lenDec : List Byte → Option (Word × Nat)
  | [] => none
  | first :: rest =>
    if first = params.lenEsc then
      match rest with
      | hi :: lo :: _ => some (word hi lo, 3)
      | _ => none
    else some (first.setWidth 16, 1)

end Sys2Proof
end

