-- ==== Sys2Proof/Machine/Ops.lean ====
section
/-! DEFINITION. The named operations over buffer, registers and queue, taking the block's one exception
(`QueueOverflow`) and the way back from it (`RESET`), and giving a result to a caller. -/

namespace Sys2Proof.Machine

/-! ### The payload buffer -/

/-- The byte written at an index, if one has been written (R28). -/
def readCell (index : Nat) : Memory → Option Byte
  | [] => none
  | (k, b) :: rest => if k = index then some b else readCell index rest

/-- The buffer with one byte written; the indices stay strictly rising. -/
def writeCell (index : Nat) (b : Byte) : Memory → Memory
  | [] => [(index, b)]
  | (k, c) :: rest =>
    if index < k then (index, b) :: (k, c) :: rest
    else if index = k then (index, b) :: rest
    else (k, c) :: writeCell index b rest

/-- The canonical form of the buffer: indices strictly rising and inside the space (R28). No cell can equal
what an unlisted index reads as, since that is a value not known. -/
def Memory.wf : Memory → Bool
  | [] => true
  | [(k, _)] => k < params.bufBytes
  | (k, _) :: (k', b') :: rest => k < k' && Memory.wf ((k', b') :: rest)

/-- `MemRead(index, 1)` (R10, R60): the byte at an index; one that nothing has written since the last reset
is a free value (R28, U6, log 2). A read has no side effect. -/
def bufRead (s : State) (index : Nat) : Byte :=
  match readCell index s.buf with
  | some b => b
  | none => Config.unwrittenBuf s.epoch index

/-- `MemWrite(index, 1, b)` (R10, R60): only the indices of R28 exist (log 16). -/
def bufWrite (index : Nat) (b : Byte) (s : State) : Out :=
  if index < params.bufBytes then .next { s with buf := writeCell index b s.buf }
  else .fault .bufIndexOutOfRange

/-- The buffer's bytes from index `start`, `count` of them. -/
def bufSlice (s : State) (start count : Nat) : List Byte :=
  (List.range count).map fun k => bufRead s (start + k)

/-! ### Sequencing -/

/-- Goes on from a next state; a stop stays what it is. -/
def andThen (o : Out) (f : State → Out) : Out :=
  match o with
  | .next s => f s
  | .fault r => .fault r
  | .refused r => .refused r

/-- An event happens if it is enabled, else its agent waits and nothing changes (R13, log 8). -/
def whenEnabled (enabled : Bool) (effect : State → Out) (s : State) : Out :=
  if enabled then effect s else .next s

/-! ### The reader's registers -/

/-- `Acc(b)` (R151): folds one body byte into the running checksum. -/
def accumulate (b : Byte) (s : State) : State :=
  { s with rAcc := accStep s.rAcc s.rPar b, rPar := !s.rPar }

/-- `rx_state <- x`. -/
def goTo (x : RxState) (s : State) : State := { s with rxState := x }

/-- The registers a control byte sets (R153): the category, the seed and an even parity, no length, no
count. -/
def startFrame (ctl : Byte) (s : State) : State :=
  { s with rCtl := ctl, rAcc := params.ckSeed, rPar := false, rLen := 0#16, rCnt := 0#16 }

/-- `MakeFrame()` (R162). -/
def makeFrame (s : State) : Frame where
  control := s.rCtl
  sequenceId := s.rSeq
  messageType := s.rMtype
  length := s.rLen
  messageId := if s.rCtl = params.ctlSof then some (bufRead s 0) else none
  payload := if s.rCtl = params.ctlSof then bufSlice s 1 (s.rLen.toNat - 1) else []
  checksum := s.rAcc

/-! ### The queue and the exception -/

/-- Taking the exception `QueueOverflow` (R190, R214): the sticky flag, the reader stopped, the code
presented; the entry that met the full queue is not stored, and nothing else is saved or changed (R220). -/
def raiseOverflow (s : State) : State :=
  present .overflow { s with faultOverflow := true, rxState := .fault }

/-- `Push(e)` (R190): appends at the tail and goes on, or takes the exception. It never waits. -/
def push (e : QueueEntry) (goOn : State → State) (s : State) : State :=
  if queueFull s then raiseOverflow s else goOn { s with queue := s.queue ++ [e] }

/-- The way back from the exception, `RESET` (R221, R240), and the power-on values (R241): R32's values;
what R32 leaves unspecified becomes a free value, the buffer's contents among it (logs 2, 3). -/
def resetBlock (s : State) : State :=
  { s with
    seqCtr := params.seqReset
    rxState := .closed
    openFlag := false
    faultOverflow := false
    rCtl := Config.freeByte s.epoch 0
    rSeq := Config.freeByte s.epoch 1
    rMtype := Config.freeByte s.epoch 2
    rLen := Config.freeWord s.epoch 0
    rCnt := Config.freeWord s.epoch 1
    rAcc := Config.freeWord s.epoch 2
    rPar := Config.freeBit s.epoch
    rCklo := Config.freeByte s.epoch 3
    buf := []
    queue := []
    rxEvent := .none
    epoch := s.epoch + 1 }

/-! ### Callers -/

/-- Hands a result to the caller (R31); nothing of the block changes. -/
def give (r : Result) (s : State) : State := { s with result := r }

/-- The counter after the next id is drawn: one more, modulo 2 to the power `SEQ_BITS` (R20, R130). -/
def nextId (ctr : Byte) : Byte := BitVec.ofNat 8 ((ctr.toNat + 1) % 2 ^ params.seqBits)

/-- `NEXT_SEQ` on the counter (R130): the value returned and the counter after it, for either value of the
OPEN parameter `SEQ_RETURNS_OLD` (D6, log 5). -/
def drawSeq (returnsOld : Bool) (ctr : Byte) : Byte × Byte :=
  (if returnsOld then ctr else nextId ctr, nextId ctr)

/-- The byte `NEXT_SEQ` returns in a state (R130). -/
def nextSeqValue (s : State) : Byte := (drawSeq params.seqReturnsOld s.seqCtr).1

/-- `NEXT_SEQ`'s effect on the counter (R20, R130): advanced by one, 255 wraps to 0. -/
def advanceSeq (s : State) : State :=
  { s with seqCtr := (drawSeq params.seqReturnsOld s.seqCtr).2 }

end Sys2Proof.Machine
end

