-- ==== Sys2Proof/Machine/Codec.lean ====
section
/-! DEFINITION. The pure functions and the transmit codec (R110 to R137). -/

namespace Sys2Proof.Machine

/-- `CKSUM(s)` (R110). -/
def execCksum (bytes : List Byte) (s : State) : Out := .next (give (.value (cksum bytes)) s)

/-- `CKSUM_BYTES(s)` (R112). -/
def execCksumBytes (bytes : List Byte) (s : State) : Out :=
  .next (give (.bytes (cksumBytes bytes)) s)

/-- The result of an encoding that may be refused to its caller (R120, R216). -/
def bytesOrTooLarge : Option (List Byte) → Result
  | some bytes => .bytes bytes
  | none => .error .lengthTooLarge

/-- `LEN_ENC(n)` (R120). -/
def execLenEnc (n : Nat) (s : State) : Out := .next (give (bytesOrTooLarge (lenEnc n)) s)

/-- The result of `LEN_DEC` (R121); a string too short is not an error: there is no value yet (log 11). -/
def lengthResult : Option (Word × Nat) → Result
  | some (n, taken) => .length n taken
  | none => .needMore

/-- `LEN_DEC(s)` (R121). -/
def execLenDec (bytes : List Byte) (s : State) : Out := .next (give (lengthResult (lenDec bytes)) s)

/-- `NEXT_SEQ` (R130). `step` performs it only inside `ENC_CMD`, by the same two operations (log 15). -/
def execNextSeq (s : State) : Out := .next (give (.byte (nextSeqValue s)) (advanceSeq s))

/-- The body of a command frame (R131): everything the checksum covers. -/
def commandBody (seq : Byte) (lengthField : List Byte) (messageId : Byte) (payload : List Byte) :
    List Byte :=
  [seq] ++ [params.mtCommand] ++ lengthField ++ [messageId] ++ payload

/-- A frame from its control byte and its body (R131, R133). -/
def frameBytes (ctl : Byte) (body : List Byte) : List Byte := [ctl] ++ body ++ cksumBytes body

/-- `ENC_CMD(message_id, payload)` (R131); a payload of more than 65534 bytes is refused to the caller, and
the counter does not advance (R132, R216). -/
def execEncCmd (messageId : Byte) (payload : List Byte) (s : State) : Out :=
  match lenEnc (payload.length + 1) with
  | some lengthField =>
    .next (give (.bytes (frameBytes params.ctlSof
      (commandBody (nextSeqValue s) lengthField messageId payload))) (advanceSeq s))
  | none => .next (give (.error .lengthTooLarge) s)

/-- The result of `ENC_ACK(f)` (R133, R134): the two bytes after the control byte, framed; an input of fewer
than three bytes is refused to the caller (R215). -/
def ackResult (f : List Byte) : Result :=
  if params.ackMinBytes ≤ f.length then .bytes (frameBytes params.ctlAck ((f.drop 1).take 2))
  else .error .ackOutOfRange

/-- `ENC_ACK(f)` (R133). -/
def execEncAck (f : List Byte) (s : State) : Out := .next (give (ackResult f) s)

end Sys2Proof.Machine
end

