-- ==== Sys2Proof/Machine/Lifecycle.lean ====
section
/-! DEFINITION. The queue's consumer side and the reader's lifecycle (R191 to R194, R240). -/

namespace Sys2Proof.Machine

/-- Removes the oldest `n` entries and hands them to the consumer (R191). -/
def popEntries (n : Nat) (s : State) : State :=
  { s with
    queue := s.queue.drop n
    delivered := (s.queue.take n).reverse ++ s.delivered
    result := .entries (s.queue.take n) }

/-- `POP` (R191): enabled on a queue that is not empty, in every reader state. -/
def execPop (s : State) : Out := whenEnabled (!s.queue.isEmpty) (fun s => .next (popEntries 1 s)) s

/-- `OPEN` (R192): enabled in CLOSED only; queue, counter, fault flag and working registers stay. -/
def execOpen (s : State) : Out :=
  whenEnabled (s.rxState == .closed) (fun s => .next { s with openFlag := true, rxState := .seek }) s

/-- `CLOSE` (R193): clears the flag and touches nothing else; enabled in every state. -/
def execClose (s : State) : Out := .next { s with openFlag := false }

/-- `SENTINEL` (R194): the iteration check finds the flag clear; into a full queue it takes the exception. -/
def execSentinel (s : State) : Out :=
  whenEnabled (sentinelEnabled s)
    (fun s => .next (push .sentinel (fun s => present .sentinel (goTo .closed s)) s)) s

/-- `RESET` (R240): enabled in every state, at any time. -/
def execReset (s : State) : Out := .next (resetBlock s)

end Sys2Proof.Machine
end

