-- ==== Sys2Proof/Machine/Reader.lean ====
section
/-! DEFINITION. The receive reader: `RX_BYTE(b)` in each state (R153 to R161), and the byte event that picks
the rule by `rx_state` (R150, R152). -/

namespace Sys2Proof.Machine

/-- `RX_BYTE.SEEK` (R153): a control byte starts a candidate; every other byte is skipped (R92). -/
def execRxSeek (b : Byte) (s : State) : Out :=
  whenEnabled (atBoundary s)
    (fun s => .next (present .none (if isControl b then goTo .hdrSeq (startFrame b s) else s))) s

/-- `RX_BYTE.HDR_SEQ` (R154): any sequence id is taken. -/
def execRxHdrSeq (b : Byte) (s : State) : Out :=
  whenEnabled (s.rxState == .hdrSeq)
    (fun s => .next (present .none (goTo .hdrType (accumulate b { s with rSeq := b })))) s

/-- Where a recognised message type leads (R155): a StartOfFrame candidate to its length, the others to
their checksum (C2, log 18). -/
def afterType (ctl : Byte) : RxState := if ctl = params.ctlSof then .len0 else .ckLo

/-- `RX_BYTE.HDR_TYPE` (R155): an unrecognised type abandons the candidate (R93, R211). -/
def execRxHdrType (b : Byte) (s : State) : Out :=
  whenEnabled (s.rxState == .hdrType)
    (fun s =>
      .next
        (if isMessageType b then
          present .none (goTo (afterType s.rCtl) (accumulate b { s with rMtype := b }))
        else present .badMtype (goTo .seek (accumulate b { s with rMtype := b })))) s

/-- Where a decoded length leads (R156, R158): an empty region has no byte to read. -/
def afterLength (len : Word) : RxState := if len = 0#16 then .ckLo else .body

/-- `RX_BYTE.LEN0` (R156): the escape, or the one-byte length. -/
def execRxLen0 (b : Byte) (s : State) : Out :=
  whenEnabled (s.rxState == .len0)
    (fun s =>
      .next
        (present .none
          (if b = params.lenEsc then goTo .lenHi (accumulate b s)
          else goTo (afterLength (b.setWidth 16)) (accumulate b { s with rLen := b.setWidth 16 })))) s

/-- `RX_BYTE.LEN_HI` (R157). -/
def execRxLenHi (b : Byte) (s : State) : Out :=
  whenEnabled (s.rxState == .lenHi)
    (fun s => .next (present .none (goTo .lenLo (accumulate b { s with rLen := word b 0x00 })))) s

/-- `RX_BYTE.LEN_LO` (R158). -/
def execRxLenLo (b : Byte) (s : State) : Out :=
  whenEnabled (s.rxState == .lenLo)
    (fun s =>
      .next
        (present .none
          (goTo (afterLength (word (hiByte s.rLen) b))
            (accumulate b { s with rLen := word (hiByte s.rLen) b })))) s

/-- The rest of the BODY event once the byte is stored (R159): count it, and leave after the last one. -/
def countRegionByte (s : State) : State :=
  goTo (if s.rCnt + 1#16 = s.rLen then .ckLo else .body) { s with rCnt := s.rCnt + 1#16 }

/-- `RX_BYTE.BODY` (R159): the byte is stored at index `r_cnt`, whatever its value. -/
def execRxBody (b : Byte) (s : State) : Out :=
  whenEnabled (s.rxState == .body)
    (fun s =>
      andThen (bufWrite s.rCnt.toNat b (accumulate b s))
        (fun s => .next (present .none (countRegionByte s)))) s

/-- `RX_BYTE.CK_LO` (R160): the byte is kept, nothing is compared yet. -/
def execRxCkLo (b : Byte) (s : State) : Out :=
  whenEnabled (s.rxState == .ckLo)
    (fun s => .next (present .none (goTo .ckHi { s with rCklo := b }))) s

/-- The end of a candidate whose checksum matched (R161): a StartOfFrame without a region is dropped (D8,
log 17), every other candidate is emitted (R162). -/
def emitCandidate (s : State) : State :=
  if s.rCtl = params.ctlSof ∧ s.rLen = 0#16 then present .zeroLen (goTo .seek s)
  else push (.frameEntry (makeFrame s)) (fun s => present .emit (goTo .seek s)) s

/-- `RX_BYTE.CK_HI` (R161): the comparison on all 16 bits, then the emit. The order of the tests is that of
R161 and R218. -/
def execRxCkHi (b : Byte) (s : State) : Out :=
  whenEnabled (s.rxState == .ckHi)
    (fun s =>
      .next
        (if word b s.rCklo = s.rAcc then emitCandidate s else present .badCksum (goTo .seek s))) s

/-- `RX_BYTE(b)` (R150): the rule of the reader's state; in CLOSED and FAULT nothing is consumed (R152). -/
def rxByte (b : Byte) (s : State) : Out :=
  match s.rxState with
  | .closed => .next s
  | .seek => execRxSeek b s
  | .hdrSeq => execRxHdrSeq b s
  | .hdrType => execRxHdrType b s
  | .len0 => execRxLen0 b s
  | .lenHi => execRxLenHi b s
  | .lenLo => execRxLenLo b s
  | .body => execRxBody b s
  | .ckLo => execRxCkLo b s
  | .ckHi => execRxCkHi b s
  | .fault => .next s

/-- Bytes given back to the front of what the link holds (R152: "bytes the link holds stay with the link"). -/
def putBack (rest : List Byte) (inbox : List Input) : List Input :=
  if rest = [] then inbox else .bytes rest :: inbox

/-- `RX(s)` (R100): the `RX_BYTE` events of the bytes in order, as far as the reader takes them; the bytes
from the first it does not take stay with the link. -/
def deliver : List Byte → State → Out
  | [], s => .next s
  | b :: rest, s =>
    if rxEnabled s then andThen (rxByte b s) (deliver rest)
    else .next { s with inbox := putBack (b :: rest) s.inbox }

end Sys2Proof.Machine
end

