-- ==== Sys2Proof/Machine/Pseudo.lean ====
section
/-! DEFINITION. The pseudo-operations of R100, each by its expansion. -/

namespace Sys2Proof.Machine

/-- `RX(s)` (R100): the `RX_BYTE` events of the bytes in order. It begins where `RX_BYTE` is enabled (R152);
bytes the reader stops taking on the way stay with the link. -/
def execRxString (bytes : List Byte) (s : State) : Out := whenEnabled (rxEnabled s) (deliver bytes) s

/-- `ENC_ACK_PAIR(seq, type)` (R100): `ENC_ACK` of any byte and the pair; the model takes the byte 0, and
the result does not depend on it (log 27). -/
def execEncAckPair (seq mtype : Byte) (s : State) : Out := execEncAck [0x00, seq, mtype] s

/-- `ACK_OF(F)` (R100): `ENC_ACK_PAIR` of the record's pair. -/
def execAckOf (f : Frame) (s : State) : Out := execEncAckPair f.sequenceId f.messageType s

/-- `DRAIN` (R100): `POP` until the queue is empty (log 28). -/
def execDrain (s : State) : Out := .next (popEntries s.queue.length s)

end Sys2Proof.Machine
end

