-- ==== Sys2Proof/Machine/Wire.lean ====
section
/-! DEFINITION. The rows of the wire: the frame formats (R81 to R84), the unrecognised values (R92, R93) and
the code values (R85 to R87, R110). A frame row is the reader consuming that candidate's bytes at a frame
boundary, byte by byte, by its decode rules (log 13). -/

namespace Sys2Proof.Machine

/-- A candidate's bytes at a frame boundary, with no other event in between; away from a boundary no
candidate starts, and the link waits. -/
def candidate (bytes : List Byte) (s : State) : Out := whenEnabled (atBoundary s) (deliver bytes) s

/-- `SOF_SHORT.CMD` (R81). -/
def execSofShortCmd (seq : Byte) (region : List Byte) (ck : Word) (s : State) : Out :=
  candidate (sofShortBytes params.mtCommand seq region ck) s

/-- `SOF_EXT.CMD` (R82). -/
def execSofExtCmd (seq : Byte) (region : List Byte) (ck : Word) (s : State) : Out :=
  candidate (sofExtBytes params.mtCommand seq region ck) s

/-- `SOF_SHORT.RSP` (R81). -/
def execSofShortRsp (seq : Byte) (region : List Byte) (ck : Word) (s : State) : Out :=
  candidate (sofShortBytes params.mtResponse seq region ck) s

/-- `SOF_EXT.RSP` (R82). -/
def execSofExtRsp (seq : Byte) (region : List Byte) (ck : Word) (s : State) : Out :=
  candidate (sofExtBytes params.mtResponse seq region ck) s

/-- `SOF_SHORT.NTF` (R81). -/
def execSofShortNtf (seq : Byte) (region : List Byte) (ck : Word) (s : State) : Out :=
  candidate (sofShortBytes params.mtNotification seq region ck) s

/-- `SOF_EXT.NTF` (R82). -/
def execSofExtNtf (seq : Byte) (region : List Byte) (ck : Word) (s : State) : Out :=
  candidate (sofExtBytes params.mtNotification seq region ck) s

/-- `EOT.CMD` (R83). -/
def execEotCmd (seq : Byte) (ck : Word) (s : State) : Out :=
  candidate (pairFrameBytes params.ctlEot params.mtCommand seq ck) s

/-- `EOT.RSP` (R83). -/
def execEotRsp (seq : Byte) (ck : Word) (s : State) : Out :=
  candidate (pairFrameBytes params.ctlEot params.mtResponse seq ck) s

/-- `EOT.NTF` (R83). -/
def execEotNtf (seq : Byte) (ck : Word) (s : State) : Out :=
  candidate (pairFrameBytes params.ctlEot params.mtNotification seq ck) s

/-- `ACK.CMD` (R84). -/
def execAckCmd (seq : Byte) (ck : Word) (s : State) : Out :=
  candidate (pairFrameBytes params.ctlAck params.mtCommand seq ck) s

/-- `ACK.RSP` (R84). -/
def execAckRsp (seq : Byte) (ck : Word) (s : State) : Out :=
  candidate (pairFrameBytes params.ctlAck params.mtResponse seq ck) s

/-- `ACK.NTF` (R84). -/
def execAckNtf (seq : Byte) (ck : Word) (s : State) : Out :=
  candidate (pairFrameBytes params.ctlAck params.mtNotification seq ck) s

/-- `CTL_UNRECOGNISED` (R92): one byte in SEEK. -/
def execCtlUnrecognised (b : Byte) (s : State) : Out := candidate [b] s

/-- `MT_UNRECOGNISED` (R93): control, sequence id and the bad type. -/
def execMtUnrecognised (ctl seq mtype : Byte) (s : State) : Out := candidate [ctl, seq, mtype] s

/-- `CTL_SOF` (R85): the control byte consumed in SEEK. -/
def execCtlSof (s : State) : Out := execRxSeek params.ctlSof s

/-- `CTL_EOT` (R85). -/
def execCtlEot (s : State) : Out := execRxSeek params.ctlEot s

/-- `CTL_ACK` (R85). -/
def execCtlAck (s : State) : Out := execRxSeek params.ctlAck s

/-- `MT_COMMAND` (R86): the type byte consumed in HDR_TYPE. -/
def execMtCommand (s : State) : Out := execRxHdrType params.mtCommand s

/-- `MT_RESPONSE` (R86). -/
def execMtResponse (s : State) : Out := execRxHdrType params.mtResponse s

/-- `MT_NOTIFICATION` (R86). -/
def execMtNotification (s : State) : Out := execRxHdrType params.mtNotification s

/-- `LEN_ESC` (R87): the escape consumed in LEN0; at every other position the byte is ordinary data. -/
def execLenEsc (s : State) : Out := execRxLen0 params.lenEsc s

/-- `CK_SEED` (R110): the constant, handed to the caller; the reader's use of it is in R153 (log 14). -/
def execCkSeed (s : State) : Out := .next (give (.value params.ckSeed) s)

end Sys2Proof.Machine
end

