-- ==== Sys2Proof/Machine/Dispatch.lean ====
section
/-! DEFINITION. `exec`: one arm per row of the opcode table, each one call of its meaning. -/

namespace Sys2Proof.Machine

/-- The meaning of an instruction. -/
def exec (i : Instr) (s : State) : Host.Outcome State Fault Refusal :=
  match i with
  | .sofShortCmd seq region ck => Sys2Proof.Machine.execSofShortCmd seq region ck s
  | .sofExtCmd seq region ck => Sys2Proof.Machine.execSofExtCmd seq region ck s
  | .sofShortRsp seq region ck => Sys2Proof.Machine.execSofShortRsp seq region ck s
  | .sofExtRsp seq region ck => Sys2Proof.Machine.execSofExtRsp seq region ck s
  | .sofShortNtf seq region ck => Sys2Proof.Machine.execSofShortNtf seq region ck s
  | .sofExtNtf seq region ck => Sys2Proof.Machine.execSofExtNtf seq region ck s
  | .eotCmd seq ck => Sys2Proof.Machine.execEotCmd seq ck s
  | .eotRsp seq ck => Sys2Proof.Machine.execEotRsp seq ck s
  | .eotNtf seq ck => Sys2Proof.Machine.execEotNtf seq ck s
  | .ackCmd seq ck => Sys2Proof.Machine.execAckCmd seq ck s
  | .ackRsp seq ck => Sys2Proof.Machine.execAckRsp seq ck s
  | .ackNtf seq ck => Sys2Proof.Machine.execAckNtf seq ck s
  | .ctlUnrecognised b => Sys2Proof.Machine.execCtlUnrecognised b s
  | .mtUnrecognised ctl seq mtype => Sys2Proof.Machine.execMtUnrecognised ctl seq mtype s
  | .ctlSof => Sys2Proof.Machine.execCtlSof s
  | .ctlEot => Sys2Proof.Machine.execCtlEot s
  | .ctlAck => Sys2Proof.Machine.execCtlAck s
  | .mtCommand => Sys2Proof.Machine.execMtCommand s
  | .mtResponse => Sys2Proof.Machine.execMtResponse s
  | .mtNotification => Sys2Proof.Machine.execMtNotification s
  | .lenEsc => Sys2Proof.Machine.execLenEsc s
  | .ckSeed => Sys2Proof.Machine.execCkSeed s
  | .cksum bytes => Sys2Proof.Machine.execCksum bytes s
  | .cksumBytes bytes => Sys2Proof.Machine.execCksumBytes bytes s
  | .lenEnc n => Sys2Proof.Machine.execLenEnc n s
  | .lenDec bytes => Sys2Proof.Machine.execLenDec bytes s
  | .nextSeq => Sys2Proof.Machine.execNextSeq s
  | .encCmd messageId payload => Sys2Proof.Machine.execEncCmd messageId payload s
  | .encAck f => Sys2Proof.Machine.execEncAck f s
  | .rxSeek b => Sys2Proof.Machine.execRxSeek b s
  | .rxHdrSeq b => Sys2Proof.Machine.execRxHdrSeq b s
  | .rxHdrType b => Sys2Proof.Machine.execRxHdrType b s
  | .rxLen0 b => Sys2Proof.Machine.execRxLen0 b s
  | .rxLenHi b => Sys2Proof.Machine.execRxLenHi b s
  | .rxLenLo b => Sys2Proof.Machine.execRxLenLo b s
  | .rxBody b => Sys2Proof.Machine.execRxBody b s
  | .rxCkLo b => Sys2Proof.Machine.execRxCkLo b s
  | .rxCkHi b => Sys2Proof.Machine.execRxCkHi b s
  | .pop => Sys2Proof.Machine.execPop s
  | .openReader => Sys2Proof.Machine.execOpen s
  | .closeReader => Sys2Proof.Machine.execClose s
  | .sentinel => Sys2Proof.Machine.execSentinel s
  | .reset => Sys2Proof.Machine.execReset s
  | .rxString bytes => Sys2Proof.Machine.execRxString bytes s
  | .encAckPair seq mtype => Sys2Proof.Machine.execEncAckPair seq mtype s
  | .ackOf f => Sys2Proof.Machine.execAckOf f s
  | .drain => Sys2Proof.Machine.execDrain s

end Sys2Proof.Machine
end

