-- ==== Sys2Proof/WellFormed.lean ====
section
/-! DEFINITION. Well-formedness of an instruction: the constraints of the opcode table's rows. -/

namespace Sys2Proof

/-- A region whose size a one-byte length can announce: any byte but the escape (R81, R94). -/
def shortRegion (region : List Byte) : Bool :=
  region.length ≤ params.lenShortMax && BitVec.ofNat 8 region.length != params.lenEsc

/-- A region whose size the extended length can announce (R82). -/
def extRegion (region : List Byte) : Bool := region.length ≤ params.lenMax

/-- The conditions R34 puts on a `Frame` record: recognised codes, and a length, `message_id` and payload
that fit the category. -/
def Frame.wellFormed (f : Frame) : Bool :=
  isControl f.control && isMessageType f.messageType &&
    (if f.control = params.ctlSof then
      f.length != 0 && f.messageId.isSome && f.payload.length + 1 == f.length.toNat
    else f.length == 0 && f.messageId.isNone && f.payload.isEmpty)

/-- The constraints of the table's rows. An operation's precondition that the spec answers with an error to
the caller (R132, R134, R216) is no constraint here: the operation has that effect. -/
def WellFormed : Instr → Bool
  | .sofShortCmd _ region _ => shortRegion region
  | .sofExtCmd _ region _ => extRegion region
  | .sofShortRsp _ region _ => shortRegion region
  | .sofExtRsp _ region _ => extRegion region
  | .sofShortNtf _ region _ => shortRegion region
  | .sofExtNtf _ region _ => extRegion region
  | .eotCmd _ _ => true
  | .eotRsp _ _ => true
  | .eotNtf _ _ => true
  | .ackCmd _ _ => true
  | .ackRsp _ _ => true
  | .ackNtf _ _ => true
  | .ctlUnrecognised b => !isControl b
  | .mtUnrecognised ctl _ mtype => isControl ctl && !isMessageType mtype
  | .ctlSof => true
  | .ctlEot => true
  | .ctlAck => true
  | .mtCommand => true
  | .mtResponse => true
  | .mtNotification => true
  | .lenEsc => true
  | .ckSeed => true
  | .cksum _ => true
  | .cksumBytes _ => true
  | .lenEnc _ => true
  | .lenDec s => (lenDec s).isSome
  | .nextSeq => true
  | .encCmd _ _ => true
  | .encAck _ => true
  | .rxSeek _ => true
  | .rxHdrSeq _ => true
  | .rxHdrType _ => true
  | .rxLen0 _ => true
  | .rxLenHi _ => true
  | .rxLenLo _ => true
  | .rxBody _ => true
  | .rxCkLo _ => true
  | .rxCkHi _ => true
  | .pop => true
  | .openReader => true
  | .closeReader => true
  | .sentinel => true
  | .reset => true
  | .rxString _ => true
  | .encAckPair _ _ => true
  | .ackOf f => f.wellFormed
  | .drain => true

end Sys2Proof
end

