-- ==== Sys2Proof/Decode.lean ====
section
/-! DEFINITION. The decoder, total on any bytes and rejecting by name, the encoder written from the same
tables, and the opcode table's word numbering. What the reader recognises depends on its state, so decoding
takes the reader's state as the position: at a frame boundary (SEEK) a whole candidate frame is recognised
when all its bytes are there (R91); at any other position, and at a boundary where bytes are still missing,
the one byte handled next is (logs 13, 14). -/

namespace Sys2Proof

/-- Why bytes decode to nothing. Both are safe: no instruction is run. -/
inductive Reject where
  /-- There is no byte. -/
  | empty
  /-- A candidate frame has begun and some of its bytes are not there (the "mid-frame stop" of R165). -/
  | incomplete
  /-- The reader consumes nothing in CLOSED and FAULT (R152). -/
  | notReading
  deriving DecidableEq, Repr

/-- What the decoder answers: an instruction and the bytes after it, or a rejection by name. -/
inductive Decoded where
  | ok (i : Instr) (rest : List Byte)
  | reject (r : Reject)
  deriving DecidableEq, Repr

/-- The row of a one-byte-length StartOfFrame frame, by its message type (R81, R86). -/
def sofShortInstr (mtype seq : Byte) (region : List Byte) (ck : Word) : Instr :=
  if mtype = params.mtCommand then .sofShortCmd seq region ck
  else if mtype = params.mtResponse then .sofShortRsp seq region ck
  else .sofShortNtf seq region ck

/-- The row of an extended-length StartOfFrame frame, by its message type (R82, R86). -/
def sofExtInstr (mtype seq : Byte) (region : List Byte) (ck : Word) : Instr :=
  if mtype = params.mtCommand then .sofExtCmd seq region ck
  else if mtype = params.mtResponse then .sofExtRsp seq region ck
  else .sofExtNtf seq region ck

/-- The row of an EndOfTransmission frame, by its message type (R83). -/
def eotInstr (mtype seq : Byte) (ck : Word) : Instr :=
  if mtype = params.mtCommand then .eotCmd seq ck
  else if mtype = params.mtResponse then .eotRsp seq ck
  else .eotNtf seq ck

/-- The row of an Acknowledge frame, by its echoed message type (R84). -/
def ackInstr (mtype seq : Byte) (ck : Word) : Instr :=
  if mtype = params.mtCommand then .ackCmd seq ck
  else if mtype = params.mtResponse then .ackRsp seq ck
  else .ackNtf seq ck

/-- The bytes from the checksum on: two bytes, low byte first (R89). -/
def decodeChecksum (make : Word → Instr) : List Byte → Decoded
  | low :: high :: rest => .ok (make (word high low)) rest
  | _ => .reject .incomplete

/-- The region of `size` bytes and the checksum after it (R81, R82, R91). -/
def decodeRegion (make : List Byte → Word → Instr) (size : Nat) (s : List Byte) : Decoded :=
  decodeChecksum (make (s.take size)) (s.drop size)

/-- A StartOfFrame candidate from its length field on: the escape announces the extended length, every
other byte is the length (R87, R88). -/
def decodeSof (mtype seq : Byte) : List Byte → Decoded
  | [] => .reject .incomplete
  | len0 :: rest =>
    if len0 = params.lenEsc then
      match rest with
      | hi :: lo :: rest' => decodeRegion (sofExtInstr mtype seq) (word hi lo).toNat rest'
      | _ => .reject .incomplete
    else decodeRegion (sofShortInstr mtype seq) len0.toNat rest

/-- A candidate from its header pair on (R80, R86, R93): the type test comes first, then the control byte
tells the format. -/
def decodeHeader (ctl : Byte) : List Byte → Decoded
  | seq :: mtype :: rest =>
    if isMessageType mtype then
      if ctl = params.ctlSof then decodeSof mtype seq rest
      else if ctl = params.ctlEot then decodeChecksum (eotInstr mtype seq) rest
      else decodeChecksum (ackInstr mtype seq) rest
    else .ok (.mtUnrecognised ctl seq mtype) rest
  | _ => .reject .incomplete

/-- The bytes at a frame boundary (R80, R91 to R93). -/
def decodeFrame : List Byte → Decoded
  | [] => .reject .empty
  | b :: rest => if isControl b then decodeHeader b rest else .ok (.ctlUnrecognised b) rest

/-- The row of a single byte at a frame boundary (R85, R92). -/
def controlInstr (b : Byte) : Instr :=
  if b = params.ctlSof then .ctlSof
  else if b = params.ctlEot then .ctlEot
  else if b = params.ctlAck then .ctlAck
  else .ctlUnrecognised b

/-- The row of the byte at offset 2 of a candidate (R86). -/
def typeInstr (b : Byte) : Instr :=
  if b = params.mtCommand then .mtCommand
  else if b = params.mtResponse then .mtResponse
  else if b = params.mtNotification then .mtNotification
  else .rxHdrType b

/-- The row of the byte at offset 3 of a StartOfFrame candidate (R87). -/
def lengthInstr (b : Byte) : Instr := if b = params.lenEsc then .lenEsc else .rxLen0 b

/-- The row of the one byte that the reader handles next in state `pos` (R152, R163). -/
def decodeByte (pos : RxState) (b : Byte) (rest : List Byte) : Decoded :=
  match pos with
  | .closed => .reject .notReading
  | .seek => .ok (controlInstr b) rest
  | .hdrSeq => .ok (.rxHdrSeq b) rest
  | .hdrType => .ok (typeInstr b) rest
  | .len0 => .ok (lengthInstr b) rest
  | .lenHi => .ok (.rxLenHi b) rest
  | .lenLo => .ok (.rxLenLo b) rest
  | .body => .ok (.rxBody b) rest
  | .ckLo => .ok (.rxCkLo b) rest
  | .ckHi => .ok (.rxCkHi b) rest
  | .fault => .reject .notReading

/-- At a frame boundary: the whole candidate if its bytes are there, else its first byte alone. -/
def decodeBoundary (b : Byte) (rest : List Byte) : Decoded :=
  match decodeFrame (b :: rest) with
  | .ok i rest' => .ok i rest'
  | .reject _ => decodeByte .seek b rest

/-- The decoder: what the reader in state `pos` recognises at the front of the bytes. -/
def decode (pos : RxState) : List Byte → Decoded
  | [] => .reject .empty
  | b :: rest => if pos = .seek then decodeBoundary b rest else decodeByte pos b rest

/-- The encoder: the reader's state in which the instruction's bytes stand at the front of the stream, and
those bytes (R81 to R87, R92, R93). Operations have no wire encoding (44_queue_lifecycle.md, its opening
paragraph), and a byte whose row is a code or unrecognised value is encoded by that row. -/
def encode : Instr → Option (RxState × List Byte)
  | .sofShortCmd seq region ck => some (.seek, sofShortBytes params.mtCommand seq region ck)
  | .sofExtCmd seq region ck => some (.seek, sofExtBytes params.mtCommand seq region ck)
  | .sofShortRsp seq region ck => some (.seek, sofShortBytes params.mtResponse seq region ck)
  | .sofExtRsp seq region ck => some (.seek, sofExtBytes params.mtResponse seq region ck)
  | .sofShortNtf seq region ck => some (.seek, sofShortBytes params.mtNotification seq region ck)
  | .sofExtNtf seq region ck => some (.seek, sofExtBytes params.mtNotification seq region ck)
  | .eotCmd seq ck => some (.seek, pairFrameBytes params.ctlEot params.mtCommand seq ck)
  | .eotRsp seq ck => some (.seek, pairFrameBytes params.ctlEot params.mtResponse seq ck)
  | .eotNtf seq ck => some (.seek, pairFrameBytes params.ctlEot params.mtNotification seq ck)
  | .ackCmd seq ck => some (.seek, pairFrameBytes params.ctlAck params.mtCommand seq ck)
  | .ackRsp seq ck => some (.seek, pairFrameBytes params.ctlAck params.mtResponse seq ck)
  | .ackNtf seq ck => some (.seek, pairFrameBytes params.ctlAck params.mtNotification seq ck)
  | .ctlUnrecognised b => some (.seek, [b])
  | .mtUnrecognised ctl seq mtype => some (.seek, [ctl, seq, mtype])
  | .ctlSof => some (.seek, [params.ctlSof])
  | .ctlEot => some (.seek, [params.ctlEot])
  | .ctlAck => some (.seek, [params.ctlAck])
  | .mtCommand => some (.hdrType, [params.mtCommand])
  | .mtResponse => some (.hdrType, [params.mtResponse])
  | .mtNotification => some (.hdrType, [params.mtNotification])
  | .lenEsc => some (.len0, [params.lenEsc])
  | .ckSeed => none
  | .cksum _ => none
  | .cksumBytes _ => none
  | .lenEnc _ => none
  | .lenDec _ => none
  | .nextSeq => none
  | .encCmd _ _ => none
  | .encAck _ => none
  | .rxSeek _ => none
  | .rxHdrSeq b => some (.hdrSeq, [b])
  | .rxHdrType b => if isMessageType b then none else some (.hdrType, [b])
  | .rxLen0 b => if b = params.lenEsc then none else some (.len0, [b])
  | .rxLenHi b => some (.lenHi, [b])
  | .rxLenLo b => some (.lenLo, [b])
  | .rxBody b => some (.body, [b])
  | .rxCkLo b => some (.ckLo, [b])
  | .rxCkHi b => some (.ckHi, [b])
  | .pop => none
  | .openReader => none
  | .closeReader => none
  | .sentinel => none
  | .reset => none
  | .rxString _ => none
  | .encAckPair _ _ => none
  | .ackOf _ => none
  | .drain => none

/-! ### The opcode table's words (log 24)

The table reads a row's bytes as ONE number, the byte at offset 0 most significant, so the bytes of a row
are the number's bytes from the most significant down. -/

/-- The `n` bytes of the number `w`, most significant first. -/
def tableBytes : Nat → Nat → List Byte
  | 0, _ => []
  | n + 1, w => BitVec.ofNat 8 (w / 256 ^ n) :: tableBytes n w

/-- How many bytes the candidate frame at a boundary takes, where a byte that is not given is 0 (R91, R164). -/
def frameExtent (s : List Byte) : Nat :=
  if isControl (s.getD 0 0) then
    if isMessageType (s.getD 2 0) then
      if s.getD 0 0 = params.ctlSof then
        if s.getD 3 0 = params.lenEsc then 6 + (word (s.getD 4 0) (s.getD 5 0)).toNat + params.ckBytes
        else 4 + (s.getD 3 0).toNat + params.ckBytes
      else 3 + params.ckBytes
    else 3
  else 1

/-- Fills a byte string up to `n` bytes with zeros. -/
def padZeros (n : Nat) (s : List Byte) : List Byte := s ++ List.replicate (n - s.length) 0

/-- The position at which a single code value is read: its own field (R85 to R87). -/
def codePosition (b : Byte) : RxState :=
  if isMessageType b then .hdrType else if b = params.lenEsc then .len0 else .seek

/-- Where a table word stands for the fetch: the reader's state, and the bytes laid out as the link delivers
them. An 8-bit row is one code value in its field; a longer row starts a candidate at a frame boundary. -/
def tableLayout (nbits w : Nat) : RxState × List Byte :=
  if nbits = 8 then (codePosition (BitVec.ofNat 8 w), tableBytes 1 w)
  else (.seek, padZeros (frameExtent (tableBytes (nbits / 8) w)) (tableBytes (nbits / 8) w))

/-- Whether a table word is the row `CK_SEED`: a 16-bit constant of no position in the stream. -/
def isSeedWord (nbits w : Nat) : Bool := nbits == 16 && w == params.ckSeed.toNat

/-- The instruction of a decoder's answer. -/
def Decoded.instr? : Decoded → Option Instr
  | .ok i _ => some i
  | .reject _ => none

/-- The instruction the decoder reads from a word of `spec/opcode_table.json`. -/
def decodeTableWord (nbits w : Nat) : Option Instr :=
  if isSeedWord nbits w then some .ckSeed
  else (decode (tableLayout nbits w).1 (tableLayout nbits w).2).instr?

end Sys2Proof
end

