-- ==== Sys2Proof/Machine/Fetch.lean ====
section
/-! DEFINITION. Which event happens next: the enabling conditions (R13, R152, R191, R192, R194), who may
perform what (R11, R12, R223), and the choice of the first pending input that can happen (log 7). -/

namespace Sys2Proof.Machine

/-- Whether an instruction can happen in a state; where it cannot, its agent waits (R13). -/
def enabled (i : Instr) (s : State) : Bool :=
  match i with
  | .sofShortCmd _ _ _ => atBoundary s
  | .sofExtCmd _ _ _ => atBoundary s
  | .sofShortRsp _ _ _ => atBoundary s
  | .sofExtRsp _ _ _ => atBoundary s
  | .sofShortNtf _ _ _ => atBoundary s
  | .sofExtNtf _ _ _ => atBoundary s
  | .eotCmd _ _ => atBoundary s
  | .eotRsp _ _ => atBoundary s
  | .eotNtf _ _ => atBoundary s
  | .ackCmd _ _ => atBoundary s
  | .ackRsp _ _ => atBoundary s
  | .ackNtf _ _ => atBoundary s
  | .ctlUnrecognised _ => atBoundary s
  | .mtUnrecognised _ _ _ => atBoundary s
  | .ctlSof => atBoundary s
  | .ctlEot => atBoundary s
  | .ctlAck => atBoundary s
  | .mtCommand => s.rxState == .hdrType
  | .mtResponse => s.rxState == .hdrType
  | .mtNotification => s.rxState == .hdrType
  | .lenEsc => s.rxState == .len0
  | .ckSeed => true
  | .cksum _ => true
  | .cksumBytes _ => true
  | .lenEnc _ => true
  | .lenDec _ => true
  | .nextSeq => true
  | .encCmd _ _ => true
  | .encAck _ => true
  | .rxSeek _ => atBoundary s
  | .rxHdrSeq _ => s.rxState == .hdrSeq
  | .rxHdrType _ => s.rxState == .hdrType
  | .rxLen0 _ => s.rxState == .len0
  | .rxLenHi _ => s.rxState == .lenHi
  | .rxLenLo _ => s.rxState == .lenLo
  | .rxBody _ => s.rxState == .body
  | .rxCkLo _ => s.rxState == .ckLo
  | .rxCkHi _ => s.rxState == .ckHi
  | .pop => !s.queue.isEmpty
  | .openReader => s.rxState == .closed
  | .closeReader => true
  | .sentinel => sentinelEnabled s
  | .reset => true
  | .rxString _ => rxEnabled s
  | .encAckPair _ _ => true
  | .ackOf _ => true
  | .drain => true

/-- Whether an event is one of an agent's (R11): the link's bytes in whatever form, the reader's SENTINEL,
the consumer's POP, the producers' encoders, the owner's lifecycle; the pure functions are anybody's.
NEXT_SEQ is nobody's: it happens only inside ENC_CMD (R20, R130, log 15). -/
def mayPerform (a : Agent) (i : Instr) : Bool :=
  match i with
  | .sofShortCmd _ _ _ => a == .link
  | .sofExtCmd _ _ _ => a == .link
  | .sofShortRsp _ _ _ => a == .link
  | .sofExtRsp _ _ _ => a == .link
  | .sofShortNtf _ _ _ => a == .link
  | .sofExtNtf _ _ _ => a == .link
  | .eotCmd _ _ => a == .link
  | .eotRsp _ _ => a == .link
  | .eotNtf _ _ => a == .link
  | .ackCmd _ _ => a == .link
  | .ackRsp _ _ => a == .link
  | .ackNtf _ _ => a == .link
  | .ctlUnrecognised _ => a == .link
  | .mtUnrecognised _ _ _ => a == .link
  | .ctlSof => a == .link
  | .ctlEot => a == .link
  | .ctlAck => a == .link
  | .mtCommand => a == .link
  | .mtResponse => a == .link
  | .mtNotification => a == .link
  | .lenEsc => a == .link
  | .ckSeed => true
  | .cksum _ => true
  | .cksumBytes _ => true
  | .lenEnc _ => true
  | .lenDec _ => true
  | .nextSeq => false
  | .encCmd _ _ => a == .producer
  | .encAck _ => a == .producer
  | .rxSeek _ => a == .link
  | .rxHdrSeq _ => a == .link
  | .rxHdrType _ => a == .link
  | .rxLen0 _ => a == .link
  | .rxLenHi _ => a == .link
  | .rxLenLo _ => a == .link
  | .rxBody _ => a == .link
  | .rxCkLo _ => a == .link
  | .rxCkHi _ => a == .link
  | .pop => a == .consumer
  | .openReader => a == .owner
  | .closeReader => a == .owner
  | .sentinel => a == .reader
  | .reset => a == .owner
  | .rxString _ => a == .link
  | .encAckPair _ _ => a == .producer
  | .ackOf _ => a == .producer
  | .drain => a == .consumer

/-- What is done about the pending inputs: an instruction is run and the inputs that remain, a call of the
wrong party is met, or every agent waits. -/
inductive Choice where
  | run (i : Instr) (inbox : List Input)
  | wrongParty
  | idle
  deriving DecidableEq, Repr

/-- The bytes at the front of the stream as the reader takes them: nothing while it takes none (R152). -/
def fetch (s : State) (bytes : List Byte) : Decoded :=
  if rxEnabled s then decode s.rxState bytes else .reject .notReading

/-- A choice made among later inputs, with an input that waits kept in its place. -/
def keepWaiting (waiting : Input) : Choice → Choice
  | .run i inbox => .run i (waiting :: inbox)
  | .wrongParty => .wrongParty
  | .idle => .idle

/-- The link's turn: the instruction at the front of its bytes, or it waits. -/
def chooseBytes (s : State) (bytes : List Byte) (rest : List Input) (later : Choice) : Choice :=
  match fetch s bytes with
  | .ok i more => .run i (putBack more rest)
  | .reject _ => keepWaiting (.bytes bytes) later

/-- An agent's turn: its call happens if it is enabled, or the agent waits. -/
def chooseCall (s : State) (a : Agent) (i : Instr) (rest : List Input) (later : Choice) : Choice :=
  if mayPerform a i then
    if enabled i s then .run i rest else keepWaiting (.call a i) later
  else .wrongParty

/-- The first pending input that can happen. `waiting` are the agents with an earlier input that cannot:
each agent's own events keep their order (R65), the others go on (R13). -/
def choose (s : State) (waiting : List Agent) : List Input → Choice
  | [] => .idle
  | .bytes bytes :: rest =>
    if waiting.contains .link then keepWaiting (.bytes bytes) (choose s waiting rest)
    else if bytes = [] then keepWaiting (.bytes bytes) (choose s waiting rest)
    else chooseBytes s bytes rest (choose s (.link :: waiting) rest)
  | .call a i :: rest =>
    if waiting.contains a then keepWaiting (.call a i) (choose s waiting rest)
    else chooseCall s a i rest (choose s (a :: waiting) rest)

end Sys2Proof.Machine
end

