-- ==== Sys2Proof/Machine/Step.lean ====
section
/-! DEFINITION. One step of the machine, and the host's placement of an instruction for the next step. -/

namespace Sys2Proof.Machine

/-- One step: the first pending input that can happen is taken from the inbox and happens (R65); when none
can, the reader performs SENTINEL if its iteration check asks for it (R194, R256, log 9), and otherwise
every agent waits and nothing changes (R13, R243). -/
def step (s : State) : Host.Outcome State Fault Refusal :=
  match choose s [] s.inbox with
  | .run i inbox => exec i { s with inbox := inbox }
  | .wrongParty => .refused .wrongParty
  | .idle => if sentinelEnabled s then exec .sentinel s else .next s

/-- `s` with the instruction of a table word as its next one (log 24, 26): its bytes at the front of the
receive stream and the reader running in the state in which it takes them, or, for the constant of no
position in the stream, a caller's request of it. -/
def State.withFetchWord (s : State) (nbits w : Nat) : State :=
  if isSeedWord nbits w then { s with inbox := .call .producer .ckSeed :: s.inbox }
  else
    { s with
      rxState := (tableLayout nbits w).1
      openFlag := (tableLayout nbits w).1 == .seek || s.openFlag
      inbox := .bytes (tableLayout nbits w).2 :: s.inbox }

end Sys2Proof.Machine
end

