-- ==== Sys2Proof/Safety.lean ====
section
/-! DEFINITION. The terms of the claims: the functional reading of a byte string (R165), what makes a
queued frame valid (R34), the invariants of R33, and quiescence (R243). -/

namespace Sys2Proof.Machine

/-! ### The checksum by index (R110) -/

/-- The loop of R110's pseudocode, by index: for every `k` below half the length the word of bytes `2k` and
`2k+1` is folded in, and at odd length the last byte as a high byte. -/
def cksumByIndex (s : List Byte) : Word :=
  let acc := (List.range (s.length / 2)).foldl
    (fun acc k => acc ^^^ word (s.getD (2 * k) 0) (s.getD (2 * k + 1) 0)) 0x5725
  if s.length % 2 = 1 then acc ^^^ word (s.getD (s.length - 1) 0) 0x00 else acc

/-! ### The functional reading `Parse` of R165 -/

/-- What one unit of the stream amounts to (R165, R218). -/
inductive Verdict where
  | noise
  | badType
  | badCksum
  | zeroLen
  | valid (f : Frame)
  deriving DecidableEq, Repr

/-- Everything the checksum of a candidate covers (R89): header pair, length field, region. -/
def coveredBytes (seq mtype : Byte) (lengthField region : List Byte) : List Byte :=
  seq :: mtype :: (lengthField ++ region)

/-- The verdict on a complete candidate whose received checksum is `ck` (R165): checksum first, then the
zero length of a StartOfFrame candidate, then the frame. -/
def judge (ctl seq mtype : Byte) (lengthField region : List Byte) (ck : Word) : Verdict :=
  if ck ≠ cksum (coveredBytes seq mtype lengthField region) then .badCksum
  else if ctl = params.ctlSof ∧ region = [] then .zeroLen
  else .valid
    { control := ctl
      sequenceId := seq
      messageType := mtype
      length := BitVec.ofNat 16 region.length
      messageId := region.head?
      payload := region.tail
      checksum := ck }

/-- A candidate from its first checksum byte on; nothing where a byte is missing. -/
def judgeTail (ctl seq mtype : Byte) (lengthField region : List Byte) :
    List Byte → Option (Verdict × List Byte)
  | low :: high :: rest => some (judge ctl seq mtype lengthField region (word high low), rest)
  | _ => none

/-- A candidate from the byte after its header pair on: a StartOfFrame candidate has a length field and a
region of that many bytes, the other two have neither. -/
def parseAfterPair (ctl seq mtype : Byte) (s : List Byte) : Option (Verdict × List Byte) :=
  if ctl = params.ctlSof then
    match lenDec s with
    | some (len, taken) =>
      judgeTail ctl seq mtype (s.take taken) ((s.drop taken).take len.toNat)
        ((s.drop taken).drop len.toNat)
    | none => none
  else judgeTail ctl seq mtype [] [] s

/-- A candidate from the byte after its control byte on; the type test comes first. -/
def parseAfterControl (ctl : Byte) : List Byte → Option (Verdict × List Byte)
  | seq :: mtype :: rest =>
    if isMessageType mtype then parseAfterPair ctl seq mtype rest else some (.badType, rest)
  | _ => none

/-- One unit at the front of a byte string read at a frame boundary, and the bytes after it; nothing where
the string ends inside a candidate. -/
def parseUnit : List Byte → Option (Verdict × List Byte)
  | [] => none
  | b :: rest => if isControl b then parseAfterControl b rest else some (.noise, rest)

/-- How the reading of a byte string ends (R165). -/
inductive Stop where
  | boundary
  | midFrame
  | overflow
  deriving DecidableEq, Repr

/-- The whole reading: the codes presented other than `EV_NONE` and the frames pushed, each in order, how
it ends, and the bytes not consumed. -/
structure Parsed where
  events : List EventCode
  frames : List Frame
  stop : Stop
  left : List Byte
  deriving DecidableEq, Repr

/-- A reading with one more code in front. -/
def Parsed.after (c : EventCode) (p : Parsed) : Parsed := { p with events := c :: p.events }

/-- A reading with one more frame in front. -/
def Parsed.afterFrame (f : Frame) (p : Parsed) : Parsed :=
  { p with events := .emit :: p.events, frames := f :: p.frames }

/-- `Parse(s)` (R165) with `room` entries free in the queue: left to right, without going back. `fuel` bounds
the number of units; the length of `s` is enough. -/
def parse : Nat → Nat → List Byte → Parsed
  | 0, _, s => ⟨[], [], .boundary, s⟩
  | fuel + 1, room, s =>
    if s = [] then ⟨[], [], .boundary, []⟩
    else
      match parseUnit s with
      | none => ⟨[], [], .midFrame, []⟩
      | some (.noise, rest) => parse fuel room rest
      | some (.badType, rest) => (parse fuel room rest).after .badMtype
      | some (.badCksum, rest) => (parse fuel room rest).after .badCksum
      | some (.zeroLen, rest) => (parse fuel room rest).after .zeroLen
      | some (.valid f, rest) =>
        match room with
        | 0 => ⟨[.overflow], [], .overflow, rest⟩
        | room + 1 => (parse fuel room rest).afterFrame f

/-! ### What a consumed candidate leaves behind -/

/-- The outputs of the block after a complete candidate, by its verdict (R161, R164, R211 to R214, R218). -/
def VerdictShown (s t : State) : Verdict → Prop
  | .noise => t.rxState = .seek ∧ t.rxEvent = .none ∧ t.eventLog = s.eventLog ∧
      t.queue = s.queue ∧ t.faultOverflow = s.faultOverflow
  | .badType => t.rxState = .seek ∧ t.rxEvent = .badMtype ∧ t.eventLog = .badMtype :: s.eventLog ∧
      t.queue = s.queue ∧ t.faultOverflow = s.faultOverflow
  | .badCksum => t.rxState = .seek ∧ t.rxEvent = .badCksum ∧ t.eventLog = .badCksum :: s.eventLog ∧
      t.queue = s.queue ∧ t.faultOverflow = s.faultOverflow
  | .zeroLen => t.rxState = .seek ∧ t.rxEvent = .zeroLen ∧ t.eventLog = .zeroLen :: s.eventLog ∧
      t.queue = s.queue ∧ t.faultOverflow = s.faultOverflow
  | .valid f =>
    if s.queue.length = params.queueCap then
      t.rxState = .fault ∧ t.rxEvent = .overflow ∧ t.eventLog = .overflow :: s.eventLog ∧
        t.queue = s.queue ∧ t.faultOverflow = true
    else
      t.rxState = .seek ∧ t.rxEvent = .emit ∧ t.eventLog = .emit :: s.eventLog ∧
        t.queue = s.queue ++ [.frameEntry f] ∧ t.faultOverflow = s.faultOverflow

/-- The whole effect on the state of a complete candidate consumed at a frame boundary: the outputs, the
working registers, the buffer (the region stored from index 0, every other index as before), and nothing
else. -/
structure CandidateConsumed (s t : State) (ctl seq mtype : Byte) (lengthField region : List Byte)
    (ck : Word) : Prop where
  shown : VerdictShown s t (judge ctl seq mtype lengthField region ck)
  rCtl : t.rCtl = ctl
  rSeq : t.rSeq = seq
  rMtype : t.rMtype = mtype
  rLen : t.rLen = BitVec.ofNat 16 region.length
  rCnt : t.rCnt = BitVec.ofNat 16 region.length
  rAcc : t.rAcc = cksum (coveredBytes seq mtype lengthField region)
  rPar : t.rPar = ((coveredBytes seq mtype lengthField region).length % 2 == 1)
  rCklo : t.rCklo = loByte ck
  stored : ∀ k, k < region.length → bufRead t k = region.getD k 0
  untouched : ∀ k, region.length ≤ k → bufRead t k = bufRead s k
  seqCtr : t.seqCtr = s.seqCtr
  openFlag : t.openFlag = s.openFlag
  result : t.result = s.result
  delivered : t.delivered = s.delivered
  epoch : t.epoch = s.epoch
  inbox : t.inbox = s.inbox

/-! ### Invariants -/

/-- The reader is inside a frame: a state from `HDR_SEQ` to `CK_HI` (R33). -/
def inFrame (s : State) : Bool :=
  match s.rxState with
  | .closed => false
  | .seek => false
  | .hdrSeq => true
  | .hdrType => true
  | .len0 => true
  | .lenHi => true
  | .lenLo => true
  | .body => true
  | .ckLo => true
  | .ckHi => true
  | .fault => false

/-- The bytes that can spell the length of a candidate of a category (R81 to R84, R95): a StartOfFrame
candidate has a field that decodes to the length, the others have none. -/
def SpellsLength (ctl : Byte) (len : Word) (field : List Byte) : Prop :=
  if ctl = params.ctlSof then lenDec field = some (len, field.length) else field = []

/-- `body` is what the reader has consumed of the frame since its control byte, by the registers (R33 (f)):
the checksum's input so far. -/
def BodySoFar (s : State) (body : List Byte) : Prop :=
  match s.rxState with
  | .hdrSeq => body = []
  | .hdrType => body = [s.rSeq]
  | .len0 => body = [s.rSeq, s.rMtype]
  | .lenHi => body = [s.rSeq, s.rMtype, params.lenEsc]
  | .lenLo => body = [s.rSeq, s.rMtype, params.lenEsc, hiByte s.rLen]
  | .body | .ckLo | .ckHi =>
    ∃ field, SpellsLength s.rCtl s.rLen field ∧
      body = coveredBytes s.rSeq s.rMtype field (bufSlice s 0 s.rCnt.toNat)
  | .closed | .seek | .fault => False

/-- A frame the data model admits (R34): well formed, its checksum that of header pair, length field and
region. "Mismatched frames are not frames". -/
def FrameValid (f : Frame) : Prop :=
  f.wellFormed = true ∧
    ∃ field, SpellsLength f.control f.length field ∧
      f.checksum =
        cksum (coveredBytes f.sequenceId f.messageType field (f.messageId.toList ++ f.payload))

/-- The invariants of R33, with the conditions they rest on. -/
structure Inv (s : State) : Prop where
  /-- R33 (a). -/
  fault_iff : s.faultOverflow = true ↔ s.rxState = .fault
  /-- R33 (b). -/
  queue_bound : s.queue.length ≤ params.queueCap
  /-- R33 (c), its ranges. -/
  body_range : s.rxState = .body → 1 ≤ s.rLen.toNat ∧ s.rCnt.toNat < s.rLen.toNat
  /-- R33 (c) and (d), the category. -/
  length_states : s.rxState = .len0 ∨ s.rxState = .lenHi ∨ s.rxState = .lenLo ∨ s.rxState = .body →
    s.rCtl = params.ctlSof
  /-- R33 (e), the control byte. -/
  control_known : inFrame s = true → isControl s.rCtl = true
  /-- R33 (e), the message type. -/
  type_known : inFrame s = true → s.rxState ≠ .hdrSeq → s.rxState ≠ .hdrType →
    isMessageType s.rMtype = true
  /-- R33 (f). -/
  checksum_so_far : inFrame s = true →
    ∃ body, BodySoFar s body ∧ s.rAcc = cksum body ∧ s.rPar = (body.length % 2 == 1)
  /-- R33 (h). -/
  closed_flag : s.rxState = .closed → s.openFlag = false
  /-- R33 (i). -/
  no_length : inFrame s = true → s.rCtl ≠ params.ctlSof → s.rLen = 0#16
  /-- R25: nothing is counted before the region. -/
  count_start : s.rxState = .hdrSeq ∨ s.rxState = .hdrType ∨ s.rxState = .len0 ∨
    s.rxState = .lenHi ∨ s.rxState = .lenLo → s.rCnt = 0
  /-- R25: the length is 0 until its field is read. -/
  length_start : s.rxState = .hdrSeq ∨ s.rxState = .hdrType → s.rLen = 0#16
  /-- R25: the whole region is counted when the checksum is read. -/
  count_end : s.rxState = .ckLo ∨ s.rxState = .ckHi → s.rCnt = s.rLen
  /-- R28, R60: every counted byte has been written. -/
  written : s.rxState = .body ∨ s.rxState = .ckLo ∨ s.rxState = .ckHi →
    ∀ k, k < s.rCnt.toNat → (readCell k s.buf).isSome = true
  /-- The buffer's canonical form. -/
  buf_wf : Memory.wf s.buf = true
  /-- R34: only valid frames are queued. -/
  queue_valid : ∀ f, .frameEntry f ∈ s.queue → FrameValid f

/-! ### Pending inputs -/

/-- The agent whose input it is (R11). -/
def Input.agent : Input → Agent
  | .bytes _ => .link
  | .call a _ => a

/-- Whether an input cannot happen in a state, so that its agent waits (R13, R152). -/
def waits (s : State) : Input → Bool
  | .bytes bytes => !bytes.isEmpty && !rxEnabled s
  | .call a i => mayPerform a i && !enabled i s

/-! ### The end of a run -/

/-- Whether a pending input offers the reader a byte: bytes the link holds, or a call of an event that only the
link performs (R11). -/
def offersByte : Input → Bool
  | .bytes s => !s.isEmpty
  | .call a i => a == .link && !mayPerform .owner i

/-- Quiescent (R243): no event of the reader is enabled, so its iteration check asks for nothing, and where it
takes bytes the link has none for it. Inputs of the other agents may be pending. -/
def Quiescent (s : State) : Prop :=
  sentinelEnabled s = false ∧ (rxEnabled s = true → ∀ x, x ∈ s.inbox → offersByte x = false)

/-- Cleanly ended (R243): closed, no fault, and the consumer has popped the sentinel. DESIGN CHOICE, unsafe
(log 31): which sentinel R243 means in a run with several open periods or a `RESET` is not said. Here it is the
last entry popped, with nothing left in the queue; `RESET` keeps `delivered`, so a sentinel popped before a later
`OPEN` and `RESET` still counts. -/
def CleanlyEnded (s : State) : Prop :=
  s.rxState = .closed ∧ s.faultOverflow = false ∧ s.queue = [] ∧ s.delivered.head? = some .sentinel

end Sys2Proof.Machine
end

