-- ==== Sys2Proof/Certificates/Slice0/Obligations.lean ====
section
/-! DEFINITION. The statements. A docstring names the rule or the section of spec/ a statement formalises;
where a statement rests on a decision of the spec's own or on a convention of the model, it says so. Each
next state is written as an update of `s`, which is also the frame: whatever is not named is unchanged. -/

open Sys2Proof Sys2Proof.Machine

/-! ### Encoding -/

/-- 30_encoding.md sections 1 and 2: every well-formed instruction with a wire encoding is what the decoder
reads from its bytes at its position (the positions of single bytes are the model's, logs 13 and 14). -/
def Obligations.WireInstructionsDecodeBack : Prop :=
  ∀ (i : Instr) (pos : RxState) (bytes : List Byte),
    WellFormed i = true → encode i = some (pos, bytes) → decode pos bytes = .ok i []

/-- 30_encoding.md section 4 (R91): the reader finds a candidate's end by counting, whatever follows it: the
twelve frame formats, the unrecognised type and the noise byte decode the same before any bytes. -/
def Obligations.CandidatesDecodeBeforeAnyBytes : Prop :=
  ∀ (i : Instr) (bytes rest : List Byte),
    WellFormed i = true → encode i = some (.seek, bytes) →
    (3 ≤ bytes.length ∨ ∃ b, i = .ctlUnrecognised b) →
    decode .seek (bytes ++ rest) = .ok i rest

/-- 30_encoding.md sections 1, 2, 4 and 5: what the decoder reads in any state of the reader is well formed,
and the bytes it took are exactly that instruction's encoding in that state, whatever stands behind them: no bit
is dropped. Whole candidates at a boundary, and single bytes there and elsewhere, are the model's units (logs 13
and 14). -/
def Obligations.DecodedCandidatesAreTheirBytes : Prop :=
  ∀ (pos : RxState) (s : List Byte) (i : Instr) (rest : List Byte),
    decode pos s = .ok i rest →
    WellFormed i = true ∧ ∃ bytes, encode i = some (pos, bytes) ∧ s = bytes ++ rest

/-- Sample words of every wire family, written out from R81 to R87, R92 and R93 and the vectors of
95_test_vectors.md. -/
def Obligations.SampleWordsDecode : Prop :=
  decode .seek [0x02, 0x00, 0xA0, 0x01, 0xF0, 0x75, 0x56] = .ok (.sofShortCmd 0x00 [0xF0] 0x5675) [] ∧
  decode .seek [0x02, 0x00, 0xA0, 0x82, 0x00, 0x01, 0xF0, 0x75, 0xD4] =
    .ok (.sofExtCmd 0x00 [0xF0] 0xD475) [] ∧
  decode .seek [0x04, 0x10, 0xBB, 0x9E, 0x47] = .ok (.eotNtf 0x10 0x479E) [] ∧
  decode .seek [0x06, 0x07, 0xA1, 0x84, 0x50] = .ok (.ackRsp 0x07 0x5084) [] ∧
  decode .seek [0x02, 0x05, 0xA2] = .ok (.mtUnrecognised 0x02 0x05 0xA2) [] ∧
  decode .seek [0x13] = .ok (.ctlUnrecognised 0x13) [] ∧
  decode .len0 [0x82] = .ok .lenEsc [] ∧
  decode .hdrType [0xBB] = .ok .mtNotification []

/-! ### Checksum -/

/-- R110: `CKSUM(s)` is the seeded fold of its pseudocode, it is handed to the caller, and no state of the
block is written. -/
def Obligations.CksumIsTheSeededFold : Prop :=
  ∀ (bytes : List Byte) (s : State),
    exec (.cksum bytes) s = .next { s with result := .value (cksumByIndex bytes) }

/-- R110 (its corner case n = 0) and the constant `CK_SEED`: the checksum of nothing is the seed. That
`CK_SEED` as an instruction hands the constant to its caller is the model's choice (log 14). -/
def Obligations.SeedIsTheChecksumOfNothing : Prop :=
  ∀ s : State,
    exec .ckSeed s = .next { s with result := .value 0x5725 } ∧
    exec (.cksum []) s = .next { s with result := .value 0x5725 }

/-- R112: the wire form is low byte first. -/
def Obligations.CksumBytesAreLowByteFirst : Prop :=
  (∀ (bytes : List Byte) (s : State),
    exec (.cksumBytes bytes) s =
      .next { s with result := .bytes [loByte (cksum bytes), hiByte (cksum bytes)] }) ∧
  cksumBytes [] = [0x25, 0x57]

/-- 40_checksum.md, streaming form (R111, marked derived there), and `Acc(b)` (R151, decision D3): an even-index
byte goes into the high half, an odd-index byte into the low half, and accumulator and parity after the
bytes are the batch checksum and the parity of their number. -/
def Obligations.StreamingChecksumIsTheBatchChecksum : Prop :=
  (∀ (acc : Word) (b : Byte),
    accStep acc false b = word (hiByte acc ^^^ b) (loByte acc) ∧
    accStep acc true b = word (hiByte acc) (loByte acc ^^^ b)) ∧
  ∀ bytes : List Byte, accRun 0x5725 false bytes = (cksum bytes, bytes.length % 2 == 1)

/-- 40_checksum.md, laws (a), (b) and (e) (R114, marked derived there): linearity over strings of equal length,
concatenation by parity of the first string's length, and trailing zeros. -/
def Obligations.ChecksumLaws : Prop :=
  (∀ s t : List Byte, s.length = t.length →
    cksum s ^^^ cksum t ^^^ 0x5725 = cksum (List.zipWith (fun a b => a ^^^ b) s t)) ∧
  ∀ s t : List Byte,
    (s.length % 2 = 0 → cksum (s ++ t) = cksum s ^^^ cksum t ^^^ 0x5725) ∧
    (s.length % 2 = 1 →
      cksum (s ++ t) =
        cksum s ^^^ word (loByte (cksum t ^^^ 0x5725)) (hiByte (cksum t ^^^ 0x5725))) ∧
    ∀ n : Nat, cksum (s ++ List.replicate n 0) = cksum s

/-- 40_checksum.md, law (f) (R114, marked derived there): two strings of equal length that differ in exactly
one byte have different checksums. -/
def Obligations.ChecksumDetectsOneChangedByte : Prop :=
  ∀ (front back : List Byte) (a b : Byte), a ≠ b →
    cksum (front ++ a :: back) ≠ cksum (front ++ b :: back)

/-! ### Length field -/

/-- 41_length.md, `LEN_ENC` (R120); that a value above 65535 is refused to the caller is the spec's own
decision (D13), and that the refusal is a next state with an error result is the model's (log 10). -/
def Obligations.LenEncForms : Prop :=
  ∀ (n : Nat) (s : State),
    (n ≤ 255 → exec (.lenEnc n) s = .next { s with result := .bytes [BitVec.ofNat 8 n] }) ∧
    (255 < n → n ≤ 65535 →
      exec (.lenEnc n) s =
        .next { s with result := .bytes [0x82, BitVec.ofNat 8 (n / 256), BitVec.ofNat 8 n] }) ∧
    (65535 < n → exec (.lenEnc n) s = .next { s with result := .error .lengthTooLarge })

/-- R121: the escape is followed by a big-endian 16-bit length; every other byte is the length. -/
def Obligations.LenDecReadsTheField : Prop :=
  (∀ (hi lo : Byte) (rest : List Byte) (s : State),
    exec (.lenDec (0x82 :: hi :: lo :: rest)) s = .next { s with result := .length (word hi lo) 3 }) ∧
  (∀ (b : Byte) (rest : List Byte) (s : State), b ≠ 0x82 →
    exec (.lenDec (b :: rest)) s = .next { s with result := .length (b.setWidth 16) 1 })

/-- 41_length.md, `LEN_DEC`, its Exceptions: a string too short is not an error; that the operation then hands
"no value yet" to its caller is the model's choice (log 11). -/
def Obligations.LenDecOfTooFewBytes : Prop :=
  ∀ s : State,
    exec (.lenDec []) s = .next { s with result := .needMore } ∧
    exec (.lenDec [0x82]) s = .next { s with result := .needMore } ∧
    ∀ b : Byte, exec (.lenDec [0x82, b]) s = .next { s with result := .needMore }

/-- 41_length.md, round trip (R122, marked derived there), with its one exception, the length 130. -/
def Obligations.LengthFieldRoundTrip : Prop :=
  (∀ (n : Nat) (t : List Byte), n ≤ 65535 → n ≠ 130 →
    ∃ field, lenEnc n = some field ∧ lenDec (field ++ t) = some (BitVec.ofNat 16 n, field.length)) ∧
  lenEnc 130 = some [0x82] ∧
  ∀ (hi lo : Byte) (t : List Byte), lenDec ([0x82] ++ hi :: lo :: t) = some (word hi lo, 3)

/-! ### Transmit codec -/

/-- 42_tx_encode.md, `NEXT_SEQ` (R130): the counter advances by one, 255 to 0, and the value returned is the
one `SEQ_RETURNS_OLD` selects: the old one, or the old one plus one (decision D6, an OPEN parameter). -/
def Obligations.NextSeqAdvancesByOne : Prop :=
  (∀ s : State,
    exec .nextSeq s =
      .next { s with
        seqCtr := s.seqCtr + 1
        result := .byte (if params.seqReturnsOld then s.seqCtr else s.seqCtr + 1) }) ∧
  ∀ (returnsOld : Bool) (ctr : Byte),
    (drawSeq returnsOld ctr).2 = ctr + 1 ∧
    (drawSeq returnsOld (drawSeq returnsOld ctr).2).1 = (drawSeq returnsOld ctr).1 + 1

/-- R131: the frame `ENC_CMD` returns for every payload it supports, and the counter advanced by exactly
one. The sequence id is the value `NEXT_SEQ` returns. -/
def Obligations.EncCmdReturnsTheFrame : Prop :=
  ∀ (messageId : Byte) (payload : List Byte) (s : State), payload.length ≤ 65534 →
    ∃ field, lenEnc (payload.length + 1) = some field ∧
      exec (.encCmd messageId payload) s =
        .next { s with
          seqCtr := s.seqCtr + 1
          result := .bytes
            ([0x02] ++ ([nextSeqValue s] ++ [0xA0] ++ field ++ [messageId] ++ payload) ++
              cksumBytes ([nextSeqValue s] ++ [0xA0] ++ field ++ [messageId] ++ payload)) }

/-- 42_tx_encode.md, the encoders outside their preconditions (R132, R134; decisions D13 and D14): no bytes,
the counter not advanced, the error to the caller. That the refusal is a next state with an error result,
after which the block goes on, is the model's choice (log 10). -/
def Obligations.EncoderRefusalsGoToTheCaller : Prop :=
  (∀ (messageId : Byte) (payload : List Byte) (s : State), 65534 < payload.length →
    exec (.encCmd messageId payload) s = .next { s with result := .error .lengthTooLarge }) ∧
  ∀ (f : List Byte) (s : State), f.length < 3 →
    exec (.encAck f) s = .next { s with result := .error .ackOutOfRange }

/-- 42_tx_encode.md, sizes (R137, marked derived there). -/
def Obligations.EncodedFrameSizes : Prop :=
  (∀ (messageId : Byte) (payload : List Byte) (s : State), payload.length ≤ 65534 →
    ∃ t bytes, exec (.encCmd messageId payload) s = .next t ∧ t.result = .bytes bytes ∧
      bytes.length = if payload.length ≤ 254 then payload.length + 7 else payload.length + 9) ∧
  ∀ (f : List Byte) (s : State), 3 ≤ f.length →
    ∃ t bytes, exec (.encAck f) s = .next t ∧ t.result = .bytes bytes ∧ bytes.length = 5

/-- R133: the acknowledgement of any three bytes or more: the pair copied unchecked, then its checksum, no
state of the block read or written. -/
def Obligations.EncAckEchoesThePair : Prop :=
  ∀ (first second third : Byte) (rest : List Byte) (s : State),
    exec (.encAck (first :: second :: third :: rest)) s =
      .next { s with
        result := .bytes ([0x06] ++ [second, third] ++ cksumBytes [second, third]) }

/-- 30_encoding.md section 6 (R100, decision D2): `ENC_ACK_PAIR` is `ENC_ACK` of any byte and the pair, and
`ACK_OF` is `ENC_ACK_PAIR` of a frame's pair; both complete, with the five bytes that R133 marks derived. -/
def Obligations.AckPseudoOperationsExpand : Prop :=
  ∀ (x seq mtype : Byte) (f : Frame) (s : State),
    exec (.encAckPair seq mtype) s = exec (.encAck [x, seq, mtype]) s ∧
    exec (.encAckPair seq mtype) s =
      .next { s with result := .bytes [0x06, seq, mtype, 0x25 ^^^ mtype, 0x57 ^^^ seq] } ∧
    exec (.ackOf f) s =
      .next { s with
        result := .bytes
          [0x06, f.sequenceId, f.messageType, 0x25 ^^^ f.messageType, 0x57 ^^^ f.sequenceId] }

/-! ### The reader, one byte event in each state -/

/-- R153: in SEEK a control byte starts a candidate, every other byte is skipped without trace. -/
def Obligations.SeekTakesAControlByteOrSkips : Prop :=
  ∀ (b : Byte) (s : State), s.rxState = .seek → s.openFlag = true →
    exec (.rxSeek b) s =
      .next (if b = 0x02 ∨ b = 0x04 ∨ b = 0x06 then
        { s with
          rCtl := b
          rAcc := 0x5725
          rPar := false
          rLen := 0
          rCnt := 0
          rxState := .hdrSeq
          rxEvent := .none }
      else { s with rxEvent := .none })

/-- R154: any sequence id is taken. -/
def Obligations.HdrSeqTakesAnySequenceId : Prop :=
  ∀ (b : Byte) (s : State), s.rxState = .hdrSeq →
    exec (.rxHdrSeq b) s =
      .next { s with
        rSeq := b
        rAcc := accStep s.rAcc s.rPar b
        rPar := !s.rPar
        rxState := .hdrType
        rxEvent := .none }

/-- 43_rx_reassembly.md, state HDR_TYPE (R155): an unrecognised type abandons the candidate; a recognised one
leads a StartOfFrame candidate to its length and the others to their checksum. The record of the code in
`eventLog` is the model's own (log 19). -/
def Obligations.HdrTypeTestsTheType : Prop :=
  ∀ (b : Byte) (s : State), s.rxState = .hdrType →
    exec (.rxHdrType b) s =
      .next (if b ≠ 0xA0 ∧ b ≠ 0xA1 ∧ b ≠ 0xBB then
        { s with
          rMtype := b
          rAcc := accStep s.rAcc s.rPar b
          rPar := !s.rPar
          rxState := .seek
          rxEvent := .badMtype
          eventLog := .badMtype :: s.eventLog }
      else
        { s with
          rMtype := b
          rAcc := accStep s.rAcc s.rPar b
          rPar := !s.rPar
          rxState := if s.rCtl = 0x02 then .len0 else .ckLo
          rxEvent := .none })

/-- R156: the escape leads to the extended length; every other byte is the length, and 0 leads straight to
the checksum. -/
def Obligations.Len0ReadsTheLengthOrTheEscape : Prop :=
  ∀ (b : Byte) (s : State), s.rxState = .len0 →
    exec (.rxLen0 b) s =
      .next (if b = 0x82 then
        { s with
          rAcc := accStep s.rAcc s.rPar b
          rPar := !s.rPar
          rxState := .lenHi
          rxEvent := .none }
      else
        { s with
          rLen := b.setWidth 16
          rAcc := accStep s.rAcc s.rPar b
          rPar := !s.rPar
          rxState := if b = 0x00 then .ckLo else .body
          rxEvent := .none })

/-- 30_encoding.md section 2 (R85 to R87): the seven code values that stand in a frame, as instructions, are
`RX_BYTE` of that value in the state that reads its field (the model's reading of a code row, log 14). -/
def Obligations.CodeValuesAreConsumedInTheirFields : Prop :=
  ∀ s : State,
    (s.rxState = .seek → s.openFlag = true →
      exec .ctlSof s =
        .next { s with
          rCtl := 0x02, rAcc := 0x5725, rPar := false, rLen := 0, rCnt := 0
          rxState := .hdrSeq, rxEvent := .none } ∧
      exec .ctlEot s =
        .next { s with
          rCtl := 0x04, rAcc := 0x5725, rPar := false, rLen := 0, rCnt := 0
          rxState := .hdrSeq, rxEvent := .none } ∧
      exec .ctlAck s =
        .next { s with
          rCtl := 0x06, rAcc := 0x5725, rPar := false, rLen := 0, rCnt := 0
          rxState := .hdrSeq, rxEvent := .none }) ∧
    (s.rxState = .hdrType →
      exec .mtCommand s =
        .next { s with
          rMtype := 0xA0, rAcc := accStep s.rAcc s.rPar 0xA0, rPar := !s.rPar
          rxState := if s.rCtl = 0x02 then .len0 else .ckLo
          rxEvent := .none } ∧
      exec .mtResponse s =
        .next { s with
          rMtype := 0xA1, rAcc := accStep s.rAcc s.rPar 0xA1, rPar := !s.rPar
          rxState := if s.rCtl = 0x02 then .len0 else .ckLo
          rxEvent := .none } ∧
      exec .mtNotification s =
        .next { s with
          rMtype := 0xBB, rAcc := accStep s.rAcc s.rPar 0xBB, rPar := !s.rPar
          rxState := if s.rCtl = 0x02 then .len0 else .ckLo
          rxEvent := .none }) ∧
    (s.rxState = .len0 →
      exec .lenEsc s =
        .next { s with
          rAcc := accStep s.rAcc s.rPar 0x82
          rPar := !s.rPar
          rxState := .lenHi
          rxEvent := .none })

/-- R157: the high byte of the big-endian length. -/
def Obligations.LenHiTakesTheHighByte : Prop :=
  ∀ (b : Byte) (s : State), s.rxState = .lenHi →
    exec (.rxLenHi b) s =
      .next { s with
        rLen := word b 0x00
        rAcc := accStep s.rAcc s.rPar b
        rPar := !s.rPar
        rxState := .lenLo
        rxEvent := .none }

/-- R158: the low byte of the big-endian length; a resulting 0 leads to the checksum. -/
def Obligations.LenLoTakesTheLowByte : Prop :=
  ∀ (b : Byte) (s : State), s.rxState = .lenLo →
    exec (.rxLenLo b) s =
      .next { s with
        rLen := word (hiByte s.rLen) b
        rAcc := accStep s.rAcc s.rPar b
        rPar := !s.rPar
        rxState := if word (hiByte s.rLen) b = 0 then .ckLo else .body
        rxEvent := .none }

/-- R159: the byte is stored at index `r_cnt`, whatever its value; every other index reads as before; after
the last byte of the region the reader goes to the checksum. `r_cnt` below 65535 is the index range of R28. -/
def Obligations.BodyStoresTheByte : Prop :=
  ∀ (b : Byte) (s : State), s.rxState = .body → s.rCnt.toNat < 65535 →
    ∃ t, exec (.rxBody b) s = .next t ∧
      t = { s with
        rAcc := accStep s.rAcc s.rPar b
        rPar := !s.rPar
        buf := t.buf
        rCnt := s.rCnt + 1
        rxState := if s.rCnt + 1 = s.rLen then .ckLo else .body
        rxEvent := .none } ∧
      bufRead t s.rCnt.toNat = b ∧
      ∀ k, k ≠ s.rCnt.toNat → bufRead t k = bufRead s k

/-- 10_state.md `buf` (R28): index 65535 is outside the buffer; that a write there stops the model with a
fault is the model's choice (log 16). No state with the invariants is in this case. -/
def Obligations.BodyOutsideTheBufferFaults : Prop :=
  ∀ (b : Byte) (s : State), s.rxState = .body → s.rCnt.toNat = 65535 →
    exec (.rxBody b) s = .fault .bufIndexOutOfRange

/-- R160: the byte is kept; nothing is compared and the checksum is not touched. -/
def Obligations.CkLoKeepsTheByte : Prop :=
  ∀ (b : Byte) (s : State), s.rxState = .ckLo →
    exec (.rxCkLo b) s = .next { s with rCklo := b, rxState := .ckHi, rxEvent := .none }

/-- 60_exceptions.md, checksum mismatch (R212): a checksum that differs on any of the 16 bits discards the
candidate; nothing is pushed. The record of the code in `eventLog` is the model's own (log 19). -/
def Obligations.ChecksumMismatchDiscards : Prop :=
  ∀ (b : Byte) (s : State), s.rxState = .ckHi → word b s.rCklo ≠ s.rAcc →
    exec (.rxCkHi b) s =
      .next { s with
        rxState := .seek
        rxEvent := .badCksum
        eventLog := .badCksum :: s.eventLog }

/-- 43_rx_reassembly.md, state CK_HI and `MakeFrame` (R161, R162; decisions D11, D18 and D27): on a match the
frame of the registers and the buffer is appended to the queue, or, where the queue holds 100 entries, it is
lost, the flag is set and the reader stops. The record in `eventLog` is the model's own (log 19). -/
def Obligations.ChecksumMatchEmitsOrOverflows : Prop :=
  ∀ (b : Byte) (s : State), s.rxState = .ckHi → word b s.rCklo = s.rAcc →
    ¬(s.rCtl = 0x02 ∧ s.rLen = 0) →
    exec (.rxCkHi b) s =
      .next (if s.queue.length = 100 then
        { s with
          faultOverflow := true
          rxState := .fault
          rxEvent := .overflow
          eventLog := .overflow :: s.eventLog }
      else
        { s with
          rxState := .seek
          rxEvent := .emit
          eventLog := .emit :: s.eventLog
          queue := s.queue ++
            [.frameEntry
              { control := s.rCtl
                sequenceId := s.rSeq
                messageType := s.rMtype
                length := s.rLen
                messageId := if s.rCtl = 0x02 then some (bufRead s 0) else none
                payload :=
                  if s.rCtl = 0x02 then
                    (List.range (s.rLen.toNat - 1)).map fun k => bufRead s (1 + k)
                  else []
                checksum := s.rAcc }] })

/-- 92_eei_decisions.md D8 (R97, R213): a StartOfFrame candidate of length 0 whose checksum matches is
dropped. The spec's own decision (log 17); the record in `eventLog` is the model's own (log 19). -/
def Obligations.ZeroLengthIsDropped : Prop :=
  ∀ (b : Byte) (s : State), s.rxState = .ckHi → word b s.rCklo = s.rAcc →
    s.rCtl = 0x02 → s.rLen = 0 →
    exec (.rxCkHi b) s =
      .next { s with
        rxState := .seek
        rxEvent := .zeroLen
        eventLog := .zeroLen :: s.eventLog }

/-! ### The rows of the wire -/

/-- R92: a byte in SEEK that is no control value changes no state and presents `EV_NONE`. -/
def Obligations.NoiseByteIsSkipped : Prop :=
  ∀ (b : Byte) (s : State), b ≠ 0x02 → b ≠ 0x04 → b ≠ 0x06 →
    s.rxState = .seek → s.openFlag = true →
    exec (.ctlUnrecognised b) s = .next { s with rxEvent := .none }

/-- 30_encoding.md section 5 (R93): the candidate with an unrecognised type is abandoned after exactly its
three bytes. The record of the code in `eventLog` is the model's own (log 19). -/
def Obligations.UnrecognisedTypeIsAbandoned : Prop :=
  ∀ (ctl seq mtype : Byte) (s : State),
    ctl = 0x02 ∨ ctl = 0x04 ∨ ctl = 0x06 → mtype ≠ 0xA0 → mtype ≠ 0xA1 → mtype ≠ 0xBB →
    s.rxState = .seek → s.openFlag = true →
    exec (.mtUnrecognised ctl seq mtype) s =
      .next { s with
        rCtl := ctl
        rSeq := seq
        rMtype := mtype
        rLen := 0
        rCnt := 0
        rAcc := 0x5725 ^^^ word seq mtype
        rPar := false
        rxEvent := .badMtype
        eventLog := .badMtype :: s.eventLog }

/-- 30_encoding.md section 1 (R81, R82) and 43_rx_reassembly.md (R161, R164, R218): the six StartOfFrame
rows at a frame boundary. Whatever region and checksum the frame carries, the reader consumes exactly its
bytes, ends with the verdict on them, and changes nothing else. The zero-length verdict is decision D8. -/
def Obligations.StartOfFrameRowsAreConsumed : Prop :=
  ∀ (seq : Byte) (region : List Byte) (ck : Word) (s : State),
    s.rxState = .seek → s.openFlag = true →
    (shortRegion region = true →
      (∃ t, exec (.sofShortCmd seq region ck) s = .next t ∧
        CandidateConsumed s t 0x02 seq 0xA0 [BitVec.ofNat 8 region.length] region ck) ∧
      (∃ t, exec (.sofShortRsp seq region ck) s = .next t ∧
        CandidateConsumed s t 0x02 seq 0xA1 [BitVec.ofNat 8 region.length] region ck) ∧
      (∃ t, exec (.sofShortNtf seq region ck) s = .next t ∧
        CandidateConsumed s t 0x02 seq 0xBB [BitVec.ofNat 8 region.length] region ck)) ∧
    (extRegion region = true →
      (∃ t, exec (.sofExtCmd seq region ck) s = .next t ∧
        CandidateConsumed s t 0x02 seq 0xA0
          (0x82 :: bigEndian (BitVec.ofNat 16 region.length)) region ck) ∧
      (∃ t, exec (.sofExtRsp seq region ck) s = .next t ∧
        CandidateConsumed s t 0x02 seq 0xA1
          (0x82 :: bigEndian (BitVec.ofNat 16 region.length)) region ck) ∧
      (∃ t, exec (.sofExtNtf seq region ck) s = .next t ∧
        CandidateConsumed s t 0x02 seq 0xBB
          (0x82 :: bigEndian (BitVec.ofNat 16 region.length)) region ck))

/-- 30_encoding.md section 1 (R83, R84) and 90_conflicts.md C2: the six EndOfTransmission and Acknowledge
rows at a frame boundary: five bytes, the checksum of the pair validated, no region. -/
def Obligations.PairRowsAreConsumed : Prop :=
  ∀ (seq : Byte) (ck : Word) (s : State), s.rxState = .seek → s.openFlag = true →
    (∃ t, exec (.eotCmd seq ck) s = .next t ∧ CandidateConsumed s t 0x04 seq 0xA0 [] [] ck) ∧
    (∃ t, exec (.eotRsp seq ck) s = .next t ∧ CandidateConsumed s t 0x04 seq 0xA1 [] [] ck) ∧
    (∃ t, exec (.eotNtf seq ck) s = .next t ∧ CandidateConsumed s t 0x04 seq 0xBB [] [] ck) ∧
    (∃ t, exec (.ackCmd seq ck) s = .next t ∧ CandidateConsumed s t 0x06 seq 0xA0 [] [] ck) ∧
    (∃ t, exec (.ackRsp seq ck) s = .next t ∧ CandidateConsumed s t 0x06 seq 0xA1 [] [] ck) ∧
    (∃ t, exec (.ackNtf seq ck) s = .next t ∧ CandidateConsumed s t 0x06 seq 0xBB [] [] ck)

/-! ### Queue and lifecycle -/

/-- 44_queue_lifecycle.md, `Push` (R190): the 100th entry is accepted, the 101st takes the exception and is
not stored. Stated of the shared operation, which the reader performs for frames and the sentinel. The record
of the code in `eventLog` is the model's own (log 19). -/
def Obligations.PushAppendsOrOverflows : Prop :=
  ∀ (e : QueueEntry) (goOn : State → State) (s : State),
    (s.queue.length = 100 →
      push e goOn s = { s with
        faultOverflow := true
        rxState := .fault
        rxEvent := .overflow
        eventLog := .overflow :: s.eventLog }) ∧
    (s.queue.length ≠ 100 → push e goOn s = goOn { s with queue := s.queue ++ [e] })

/-- 44_queue_lifecycle.md, `POP` (R191, decision D20): `POP` removes and returns the oldest entry, in every
reader state; on an empty queue the consumer waits, in the model a next state without any change (log 8). The
copy in `delivered` is the model's record (log 20). -/
def Obligations.PopReturnsTheOldestEntry : Prop :=
  ∀ s : State,
    (∀ (e : QueueEntry) (rest : List QueueEntry), s.queue = e :: rest →
      exec .pop s =
        .next { s with queue := rest, result := .entries [e], delivered := e :: s.delivered }) ∧
    (s.queue = [] → exec .pop s = .next s)

/-- 30_encoding.md section 6 (R100, decision D2): `DRAIN` pops until the queue is empty, oldest first. -/
def Obligations.DrainEmptiesTheQueue : Prop :=
  ∀ s : State,
    exec .drain s =
      .next { s with
        queue := []
        result := .entries s.queue
        delivered := s.queue.reverse ++ s.delivered }

/-- 44_queue_lifecycle.md, `OPEN` (R192, decision D12): in CLOSED it sets the flag and starts the reader in
SEEK, and changes nothing else; in every other state it does not happen. -/
def Obligations.OpenStartsTheReader : Prop :=
  ∀ s : State,
    (s.rxState = .closed → exec .openReader s = .next { s with openFlag := true, rxState := .seek }) ∧
    (s.rxState ≠ .closed → exec .openReader s = .next s)

/-- R193: `CLOSE` clears the flag in every state and touches nothing else. -/
def Obligations.CloseOnlyClearsTheFlag : Prop :=
  ∀ s : State, exec .closeReader s = .next { s with openFlag := false }

/-- 44_queue_lifecycle.md, `SENTINEL` (R194, decisions D9 and D10): with room the sentinel is appended and
the reader is CLOSED; into a full queue the exception is taken and no sentinel is stored. The record of the
code in `eventLog` is the model's own (log 19). -/
def Obligations.SentinelClosesTheReader : Prop :=
  ∀ s : State, s.rxState = .seek → s.openFlag = false →
    exec .sentinel s =
      .next (if s.queue.length = 100 then
        { s with
          faultOverflow := true
          rxState := .fault
          rxEvent := .overflow
          eventLog := .overflow :: s.eventLog }
      else
        { s with
          queue := s.queue ++ [.sentinel]
          rxState := .closed
          rxEvent := .sentinel
          eventLog := .sentinel :: s.eventLog })

/-- 70_reset_and_hazards.md, `RESET` (R240, R241, decisions D4 and D5): from every state, and at power-on, the
values of R32; nothing is pushed, the queue is emptied, and the model's records stay. What R32 leaves
unspecified (working registers, buffer) is not stated. -/
def Obligations.ResetReturnsToTheInitialState : Prop :=
  (∀ s : State, ∃ t, exec .reset s = .next t ∧
    t.seqCtr = params.seqReset ∧ t.rxState = .closed ∧ t.openFlag = false ∧
    t.faultOverflow = false ∧ t.queue = [] ∧ t.rxEvent = .none ∧
    t.eventLog = s.eventLog ∧ t.result = s.result ∧ t.delivered = s.delivered ∧
    t.inbox = s.inbox) ∧
  State.reset.seqCtr = params.seqReset ∧ State.reset.rxState = .closed ∧
  State.reset.openFlag = false ∧ State.reset.faultOverflow = false ∧ State.reset.queue = [] ∧
  State.reset.rxEvent = .none

/-! ### Whole-machine rules -/

/-- 00_scope.md, outcomes of an event (R13, decisions D1 and D24): an event that is not enabled does not
happen: nothing changes. -/
def Obligations.EventsNotEnabledDoNotHappen : Prop :=
  ∀ (i : Instr) (s : State), enabled i s = false → exec i s = .next s

/-- 10_state.md `fault_overflow` (R23) and 60_exceptions.md (R221, decision D11): nothing but `RESET` clears
the flag or leaves FAULT. -/
def Obligations.OnlyResetLeavesTheFault : Prop :=
  ∀ (i : Instr) (s t : State), exec i s = .next t → i ≠ .reset →
    (s.faultOverflow = true → t.faultOverflow = true) ∧ (s.rxState = .fault → t.rxState = .fault)

/-- 20_memory.md section 6 (R63) and 44_queue_lifecycle.md (R195, decisions D10 and D12): but for `RESET`,
what has been delivered followed by what is queued only ever grows at its end: first in, first out, nothing
lost, nothing reordered. `delivered` is the model's record of the popped entries (log 20). -/
def Obligations.QueueIsFirstInFirstOut : Prop :=
  ∀ (i : Instr) (s t : State), exec i s = .next t → i ≠ .reset →
    ∃ added, t.delivered.reverse ++ t.queue = (s.delivered.reverse ++ s.queue) ++ added

/-- 20_memory.md (R67, decision D22): only `NEXT_SEQ`, `ENC_CMD` and `RESET` touch the sequence counter; no
other event writes it, and what any other event does is the same whatever its value. -/
def Obligations.ReceiveSideIgnoresTheCounter : Prop :=
  ∀ (i : Instr) (s t : State) (c : Byte), exec i s = .next t →
    i ≠ .nextSeq → (∀ messageId payload, i ≠ .encCmd messageId payload) → i ≠ .reset →
    t.seqCtr = s.seqCtr ∧ exec i { s with seqCtr := c } = .next { t with seqCtr := c }

/-- 43_rx_reassembly.md (R152, decision D9): inside a frame the open flag is not looked at. -/
def Obligations.OpenFlagIsNotLookedAtInsideAFrame : Prop :=
  ∀ (b : Byte) (s t : State) (flag : Bool), inFrame s = true → exec (.rxString [b]) s = .next t →
    exec (.rxString [b]) { s with openFlag := flag } = .next { t with openFlag := flag }

/-- 43_rx_reassembly.md, noise (R92, R166 (a), marked derived there): a byte string without a control value,
consumed at a frame boundary, leaves everything as it was and logs nothing. -/
def Obligations.NoiseStringsLeaveNoTrace : Prop :=
  ∀ (bytes : List Byte) (s : State), bytes ≠ [] → s.rxState = .seek → s.openFlag = true →
    (∀ b, b ∈ bytes → b ≠ 0x02 ∧ b ≠ 0x04 ∧ b ≠ 0x06) →
    exec (.rxString bytes) s = .next { s with rxEvent := .none }

/-- 43_rx_reassembly.md, functional reading (R165, marked derived there): from a frame boundary the reader's
behaviour on any byte string is the left-to-right reading `parse`: its frames are queued, its codes logged,
the reader ends where the reading ends, and bytes left after an overflow stay with the link. The outcome of a
StartOfFrame of length 0 is the spec's own decision D8 (log 17), as is the end in FAULT (D11, log 25); that the
whole string is one step, whose untaken bytes go back to the inbox, is the model's (log 28), and so is the
record of the codes (log 19). -/
def Obligations.ReaderIsTheFunctionalReading : Prop :=
  ∀ (bytes : List Byte) (s : State), s.rxState = .seek → s.openFlag = true →
    s.faultOverflow = false → s.queue.length ≤ 100 →
    ∃ t, exec (.rxString bytes) s = .next t ∧
      let p := parse bytes.length (100 - s.queue.length) bytes
      t.queue = s.queue ++ p.frames.map QueueEntry.frameEntry ∧
      t.eventLog = p.events.reverse ++ s.eventLog ∧
      (match p.stop with
        | .boundary => t.rxState = .seek ∧ t.faultOverflow = false
        | .midFrame => inFrame t = true ∧ t.faultOverflow = false
        | .overflow => t.rxState = .fault ∧ t.faultOverflow = true) ∧
      t.inbox = (if p.left = [] then s.inbox else .bytes p.left :: s.inbox) ∧
      t.openFlag = true ∧ t.seqCtr = s.seqCtr ∧ t.result = s.result ∧ t.delivered = s.delivered

/-- 42_tx_encode.md, agreement with the reader (R138, marked derived there; 90_conflicts.md C1 and C10): the
bytes `ENC_CMD` returns, for every payload but one of 129 bytes, make the reader push exactly one frame with
that message id and payload. -/
def Obligations.EncodedCommandIsReceived : Prop :=
  ∀ (messageId : Byte) (payload bytes : List Byte) (s sent : State),
    payload.length ≤ 65534 → payload.length ≠ 129 →
    exec (.encCmd messageId payload) sent = .next { sent with
      seqCtr := sent.seqCtr + 1, result := .bytes bytes } →
    s.rxState = .seek → s.openFlag = true → s.queue.length < 100 →
    ∃ t ck, exec (.rxString bytes) s = .next t ∧
      t.queue = s.queue ++
        [.frameEntry
          { control := 0x02
            sequenceId := nextSeqValue sent
            messageType := 0xA0
            length := BitVec.ofNat 16 (payload.length + 1)
            messageId := some messageId
            payload := payload
            checksum := ck }] ∧
      t.rxState = .seek ∧ t.eventLog = .emit :: s.eventLog ∧ t.inbox = s.inbox

/-- 42_tx_encode.md, agreement with the reader (R138, marked derived there): the bytes `ENC_ACK` returns for
an input whose third byte is a recognised type make the reader push exactly one Acknowledge frame. -/
def Obligations.EncodedAckIsReceived : Prop :=
  ∀ (first seq mtype : Byte) (rest bytes : List Byte) (s sent : State),
    mtype = 0xA0 ∨ mtype = 0xA1 ∨ mtype = 0xBB →
    exec (.encAck (first :: seq :: mtype :: rest)) sent = .next { sent with result := .bytes bytes } →
    s.rxState = .seek → s.openFlag = true → s.queue.length < 100 →
    ∃ t, exec (.rxString bytes) s = .next t ∧
      t.queue = s.queue ++
        [.frameEntry
          { control := 0x06
            sequenceId := seq
            messageType := mtype
            length := 0
            messageId := none
            payload := []
            checksum := 0x5725 ^^^ word seq mtype }] ∧
      t.rxState = .seek ∧ t.eventLog = .emit :: s.eventLog ∧ t.inbox = s.inbox

/-! ### The step and the invariants -/

/-- What a step does with the first pending input (log 7): the instruction its bytes decode to, or its call,
is executed in the state with that input taken from the inbox; bytes after it stay at its front. -/
def Obligations.StepRunsTheDecodedInstruction : Prop :=
  (∀ (s : State) (bytes more : List Byte) (i : Instr) (rest : List Input),
    s.inbox = .bytes bytes :: rest → rxEnabled s = true → decode s.rxState bytes = .ok i more →
    step s = exec i { s with inbox := if more = [] then rest else .bytes more :: rest }) ∧
  ∀ (s : State) (a : Agent) (i : Instr) (rest : List Input),
    s.inbox = .call a i :: rest → mayPerform a i = true → enabled i s = true →
    step s = exec i { s with inbox := rest }

/-- 00_scope.md (R13), 20_memory.md (R65) and 60_exceptions.md (R223, U11): an agent whose event is not enabled
waits, and an event of another agent behind it happens, be it a call behind a call, a call behind bytes the
reader does not take, or bytes behind a call; a later input of the agent that waits is never the one taken, so
each agent's events keep their order. A call of an event that is not the agent's is refused as a configuration
(the model's inbox, logs 7 and 12). -/
def Obligations.WaitingAgentsDoNotBlockOthers : Prop :=
  (∀ (s : State) (a b : Agent) (i j : Instr) (rest : List Input),
    s.inbox = .call a i :: .call b j :: rest → a ≠ b →
    mayPerform a i = true → enabled i s = false → mayPerform b j = true → enabled j s = true →
    step s = exec j { s with inbox := .call a i :: rest }) ∧
  (∀ (s : State) (bytes : List Byte) (a : Agent) (i : Instr) (rest : List Input),
    s.inbox = .bytes bytes :: .call a i :: rest → rxEnabled s = false → a ≠ .link →
    mayPerform a i = true → enabled i s = true →
    step s = exec i { s with inbox := .bytes bytes :: rest }) ∧
  (∀ (s : State) (a : Agent) (i j : Instr) (bytes more : List Byte) (rest : List Input),
    s.inbox = .call a i :: .bytes bytes :: rest → a ≠ .link →
    mayPerform a i = true → enabled i s = false →
    rxEnabled s = true → decode s.rxState bytes = .ok j more →
    step s = exec j { s with
      inbox := .call a i :: (if more = [] then rest else .bytes more :: rest) }) ∧
  (∀ (s : State) (x y : Input) (between rest inbox : List Input) (i : Instr),
    s.inbox = x :: (between ++ y :: rest) → waits s x = true → y.agent = x.agent →
    choose s [] s.inbox = .run i inbox →
    (∃ between', inbox = x :: (between' ++ y :: rest)) ∨
      ∃ rest', inbox = x :: (between ++ y :: rest')) ∧
  ∀ (s : State) (a : Agent) (i : Instr) (rest : List Input),
    s.inbox = .call a i :: rest → mayPerform a i = false → step s = .refused .wrongParty

/-- 70_reset_and_hazards.md (R243, R256): where no pending input of any agent can happen, the reader's iteration
check alone decides: SENTINEL happens if the flag is clear in SEEK, and otherwise nothing does (log 9). In a
quiescent state, in which no event of the reader is enabled while inputs of the other agents may be, whatever a
step takes is an event of another agent and no SENTINEL is performed. -/
def Obligations.IdleStepPerformsOnlyTheSentinel : Prop :=
  ∀ s : State,
    (choose s [] s.inbox = .idle → ¬(s.rxState = .seek ∧ s.openFlag = false) → step s = .next s) ∧
    (Quiescent s →
      (∀ i inbox, choose s [] s.inbox = .run i inbox →
        mayPerform .owner i = true ∨ mayPerform .consumer i = true ∨ mayPerform .producer i = true) ∧
      (choose s [] s.inbox = .idle → step s = .next s)) ∧
    (choose s [] s.inbox = .idle → s.rxState = .seek → s.openFlag = false →
      step s = exec .sentinel s) ∧
    ∀ bytes : List Byte, s.inbox = [.bytes bytes] → rxEnabled s = false →
      (s.rxState = .seek → s.openFlag = true) → step s = .next s

/-- 10_state.md, invariants (R33, marked derived there), with the buffer's canonical form and the validity of
queued frames (R34): from every state with the invariants, every step that answers a next state keeps them. -/
def Obligations.EveryStepKeepsTheInvariants : Prop :=
  ∀ s t : State, Inv s → step s = .next t → Inv t

/-- 10_state.md (R32, R33): the invariants hold after reset. -/
def Obligations.ResetHasTheInvariants : Prop := Inv State.reset

/-- 10_state.md `buf` (R28, R33 (c)): from a state with the invariants no step stops with a fault: no length
the reader can decode overflows the buffer. -/
def Obligations.NoStepFaultsUnderTheInvariants : Prop :=
  ∀ (s : State) (r : Fault), Inv s → step s ≠ .fault r

/-- 42_tx_encode.md, `NEXT_SEQ` (R130, "Internal to `ENC_CMD`"), 20_memory.md (R65 (c), R68, decision D1) and
10_state.md `seq_ctr` (R20): a step that answers a next state leaves the counter as it was, or is an `ENC_CMD`
that draws exactly one id, the value its frame carries, or is `RESET`; so the ids of the commands between two
resets are consecutive modulo 256. A call of `NEXT_SEQ` by itself, no event of any agent, is refused as a
configuration (log 15). -/
def Obligations.OnlyEncCmdAndResetMoveTheCounter : Prop :=
  (∀ s t : State, step s = .next t →
    t.seqCtr = s.seqCtr ∨
    (∃ messageId payload inbox bytes,
      choose s [] s.inbox = .run (.encCmd messageId payload) inbox ∧
      t.seqCtr = s.seqCtr + 1 ∧ t.result = .bytes bytes ∧ bytes[1]? = some (nextSeqValue s)) ∨
    ∃ inbox, choose s [] s.inbox = .run .reset inbox ∧ t.seqCtr = params.seqReset) ∧
  ∀ (s : State) (a : Agent) (rest : List Input),
    s.inbox = .call a .nextSeq :: rest → step s = .refused .wrongParty
end

