-- ==== Sys2Proof/Laws/Operands.lean ====
section
/-! SUPPORT. The parameters' values, the byte-order helpers, recognition of the codes, and the equations of
the checksum and the length field. -/

namespace Sys2Proof

/-! ### The parameter table (R6) -/

@[simp] theorem params_ctlSof : params.ctlSof = 0x02#8 := rfl
@[simp] theorem params_ctlEot : params.ctlEot = 0x04#8 := rfl
@[simp] theorem params_ctlAck : params.ctlAck = 0x06#8 := rfl
@[simp] theorem params_mtCommand : params.mtCommand = 0xA0#8 := rfl
@[simp] theorem params_mtResponse : params.mtResponse = 0xA1#8 := rfl
@[simp] theorem params_mtNotification : params.mtNotification = 0xBB#8 := rfl
@[simp] theorem params_lenEsc : params.lenEsc = 0x82#8 := rfl
@[simp] theorem params_lenShortMax : params.lenShortMax = 255 := rfl
@[simp] theorem params_lenMax : params.lenMax = 65535 := rfl
@[simp] theorem params_ckSeed : params.ckSeed = 0x5725#16 := rfl
@[simp] theorem params_ckBytes : params.ckBytes = 2 := rfl
@[simp] theorem params_seqBits : params.seqBits = 8 := rfl
@[simp] theorem params_queueCap : params.queueCap = 100 := rfl
@[simp] theorem params_bufBytes : params.bufBytes = 65535 := rfl
@[simp] theorem params_ackMinBytes : params.ackMinBytes = 3 := rfl

/-! ### Byte order (R52 to R54) -/

/-- The checksum field is the low byte, then the high byte (R54, R112). -/
theorem littleEndian_eq (w : Word) : littleEndian w = [loByte w, hiByte w] := rfl

@[simp] theorem littleEndian_length (w : Word) : (littleEndian w).length = 2 := rfl
@[simp] theorem bigEndian_length (w : Word) : (bigEndian w).length = 2 := rfl

theorem getLsbD_word (hi lo : Byte) (i : Nat) :
    (word hi lo).getLsbD i = if i < 8 then lo.getLsbD i else hi.getLsbD (i - 8) :=
  (BitVec.getLsbD_append (x := hi) (y := lo) (i := i)).trans (by cases h : decide (i < 8) <;> simp_all)

theorem getLsbD_hiByte (w : Word) (i : Nat) :
    (hiByte w).getLsbD i = (decide (i < 8) && w.getLsbD (8 + i)) := by
  simp [hiByte]

theorem getLsbD_loByte (w : Word) (i : Nat) :
    (loByte w).getLsbD i = (decide (i < 8) && w.getLsbD i) := by
  simp [loByte]

@[simp] theorem hiByte_word (hi lo : Byte) : hiByte (word hi lo) = hi := by
  apply BitVec.eq_of_getLsbD_eq
  intro i h
  simp only [getLsbD_hiByte, getLsbD_word, h, decide_true, Bool.true_and]
  rw [if_neg (by omega), Nat.add_sub_cancel_left]

@[simp] theorem loByte_word (hi lo : Byte) : loByte (word hi lo) = lo := by
  apply BitVec.eq_of_getLsbD_eq
  intro i h
  simp only [getLsbD_loByte, getLsbD_word, h, decide_true, Bool.true_and, if_true]

@[simp] theorem word_hiByte_loByte (w : Word) : word (hiByte w) (loByte w) = w := by
  apply BitVec.eq_of_getLsbD_eq
  intro i h
  simp only [getLsbD_word, getLsbD_hiByte, getLsbD_loByte]
  split
  · simp [*]
  · rw [Nat.add_sub_of_le (by omega)]
    simp [show i - 8 < 8 by omega]

/-- A 16-bit value is its two bytes. -/
theorem word_inj {hi lo hi' lo' : Byte} : word hi lo = word hi' lo' ↔ hi = hi' ∧ lo = lo' := by
  constructor
  · intro h
    exact ⟨by simpa using congrArg hiByte h, by simpa using congrArg loByte h⟩
  · rintro ⟨rfl, rfl⟩
    rfl

theorem word_toNat (hi lo : Byte) : (word hi lo).toNat = hi.toNat * 256 + lo.toNat := by
  have h := hi.isLt
  have l := lo.isLt
  refine (BitVec.toNat_append hi lo).trans ?_
  rw [Nat.shiftLeft_eq, Nat.mul_comm, ← Nat.two_pow_add_eq_or_of_lt l]

/-- XOR of 16-bit values is XOR of their bytes. -/
theorem word_xor (a b c d : Byte) : word a b ^^^ word c d = word (a ^^^ c) (b ^^^ d) := by
  apply BitVec.eq_of_getLsbD_eq
  intro i h
  simp only [BitVec.getLsbD_xor, getLsbD_word]
  split <;> rfl

/-! ### Recognition (R85, R86) -/

theorem isControl_iff (b : Byte) : isControl b = true ↔ b = 0x02#8 ∨ b = 0x04#8 ∨ b = 0x06#8 := by
  simp [isControl, or_assoc]

theorem isMessageType_iff (b : Byte) :
    isMessageType b = true ↔ b = 0xA0#8 ∨ b = 0xA1#8 ∨ b = 0xBB#8 := by
  simp [isMessageType, or_assoc]

/-! ### The checksum's equations (R110, R111) -/

@[simp] theorem foldWords_nil (acc : Word) : foldWords acc [] = acc := rfl
@[simp] theorem foldWords_single (acc : Word) (b : Byte) :
    foldWords acc [b] = acc ^^^ word b 0x00 := rfl
@[simp] theorem foldWords_pair (acc : Word) (hi lo : Byte) (rest : List Byte) :
    foldWords acc (hi :: lo :: rest) = foldWords (acc ^^^ word hi lo) rest := rfl
@[simp] theorem accRun_nil (acc : Word) (par : Bool) : accRun acc par [] = (acc, par) := rfl
@[simp] theorem accRun_cons (acc : Word) (par : Bool) (b : Byte) (rest : List Byte) :
    accRun acc par (b :: rest) = accRun (accStep acc par b) (!par) rest := rfl

theorem accRun_append (acc : Word) (par : Bool) (s t : List Byte) :
    accRun acc par (s ++ t) = accRun (accRun acc par s).1 (accRun acc par s).2 t := by
  induction s generalizing acc par with
  | nil => rfl
  | cons b s ih => simp [ih]

/-! ### The length field (R120, R121) -/

theorem lenEnc_short {n : Nat} (h : n ≤ 255) : lenEnc n = some [BitVec.ofNat 8 n] := by
  simp [lenEnc, h]

theorem lenEnc_ext {n : Nat} (h : 255 < n) (h' : n ≤ 65535) :
    lenEnc n = some (0x82#8 :: bigEndian (BitVec.ofNat 16 n)) := by
  simp [lenEnc, h', Nat.not_le.2 h]

theorem lenEnc_tooLarge {n : Nat} (h : 65535 < n) : lenEnc n = none := by
  simp [lenEnc, show ¬ n ≤ 255 by omega, Nat.not_le.2 h]

theorem lenDec_ext (hi lo : Byte) (rest : List Byte) :
    lenDec (0x82#8 :: hi :: lo :: rest) = some (word hi lo, 3) := rfl

theorem lenDec_short {b : Byte} (h : b ≠ 0x82#8) (rest : List Byte) :
    lenDec (b :: rest) = some (b.setWidth 16, 1) := by
  simp [lenDec, h]

/-- Everything `LEN_DEC` can answer. -/
theorem lenDec_cases {s : List Byte} {n : Word} {k : Nat} (h : lenDec s = some (n, k)) :
    (∃ hi lo rest, s = 0x82#8 :: hi :: lo :: rest ∧ n = word hi lo ∧ k = 3) ∨
      (∃ b rest, s = b :: rest ∧ b ≠ 0x82#8 ∧ n = b.setWidth 16 ∧ k = 1) := by
  cases s with
  | nil => cases h
  | cons b s =>
    by_cases hb : b = 0x82#8
    · subst hb
      match s with
      | [] => cases h
      | [_] => cases h
      | hi :: lo :: rest =>
        cases h
        exact .inl ⟨hi, lo, rest, rfl, rfl, rfl⟩
    · rw [lenDec_short hb] at h
      cases h
      exact .inr ⟨b, s, rfl, hb, rfl, rfl⟩

end Sys2Proof
end

