-- ==== Sys2Proof/Laws/State.lean ====
section
/-! SUPPORT. One lemma per field and named update of the state, each true by computation, so that no later
proof unfolds a record update. -/

namespace Sys2Proof.Machine

/-! ### `present` -/

@[simp] theorem present_seqCtr (c : EventCode) (s : State) : (present c s).seqCtr = s.seqCtr := rfl
@[simp] theorem present_rxState (c : EventCode) (s : State) : (present c s).rxState = s.rxState := rfl
@[simp] theorem present_openFlag (c : EventCode) (s : State) : (present c s).openFlag = s.openFlag := rfl
@[simp] theorem present_faultOverflow (c : EventCode) (s : State) : (present c s).faultOverflow = s.faultOverflow := rfl
@[simp] theorem present_rCtl (c : EventCode) (s : State) : (present c s).rCtl = s.rCtl := rfl
@[simp] theorem present_rSeq (c : EventCode) (s : State) : (present c s).rSeq = s.rSeq := rfl
@[simp] theorem present_rMtype (c : EventCode) (s : State) : (present c s).rMtype = s.rMtype := rfl
@[simp] theorem present_rLen (c : EventCode) (s : State) : (present c s).rLen = s.rLen := rfl
@[simp] theorem present_rCnt (c : EventCode) (s : State) : (present c s).rCnt = s.rCnt := rfl
@[simp] theorem present_rAcc (c : EventCode) (s : State) : (present c s).rAcc = s.rAcc := rfl
@[simp] theorem present_rPar (c : EventCode) (s : State) : (present c s).rPar = s.rPar := rfl
@[simp] theorem present_rCklo (c : EventCode) (s : State) : (present c s).rCklo = s.rCklo := rfl
@[simp] theorem present_buf (c : EventCode) (s : State) : (present c s).buf = s.buf := rfl
@[simp] theorem present_queue (c : EventCode) (s : State) : (present c s).queue = s.queue := rfl
@[simp] theorem present_rxEvent (c : EventCode) (s : State) : (present c s).rxEvent = c := rfl
@[simp] theorem present_eventLog (c : EventCode) (s : State) : (present c s).eventLog = if c = .none then s.eventLog else c :: s.eventLog := rfl
@[simp] theorem present_result (c : EventCode) (s : State) : (present c s).result = s.result := rfl
@[simp] theorem present_delivered (c : EventCode) (s : State) : (present c s).delivered = s.delivered := rfl
@[simp] theorem present_epoch (c : EventCode) (s : State) : (present c s).epoch = s.epoch := rfl
@[simp] theorem present_inbox (c : EventCode) (s : State) : (present c s).inbox = s.inbox := rfl

/-! ### `accumulate` -/

@[simp] theorem accumulate_seqCtr (b : Byte) (s : State) : (accumulate b s).seqCtr = s.seqCtr := rfl
@[simp] theorem accumulate_rxState (b : Byte) (s : State) : (accumulate b s).rxState = s.rxState := rfl
@[simp] theorem accumulate_openFlag (b : Byte) (s : State) : (accumulate b s).openFlag = s.openFlag := rfl
@[simp] theorem accumulate_faultOverflow (b : Byte) (s : State) : (accumulate b s).faultOverflow = s.faultOverflow := rfl
@[simp] theorem accumulate_rCtl (b : Byte) (s : State) : (accumulate b s).rCtl = s.rCtl := rfl
@[simp] theorem accumulate_rSeq (b : Byte) (s : State) : (accumulate b s).rSeq = s.rSeq := rfl
@[simp] theorem accumulate_rMtype (b : Byte) (s : State) : (accumulate b s).rMtype = s.rMtype := rfl
@[simp] theorem accumulate_rLen (b : Byte) (s : State) : (accumulate b s).rLen = s.rLen := rfl
@[simp] theorem accumulate_rCnt (b : Byte) (s : State) : (accumulate b s).rCnt = s.rCnt := rfl
@[simp] theorem accumulate_rAcc (b : Byte) (s : State) : (accumulate b s).rAcc = accStep s.rAcc s.rPar b := rfl
@[simp] theorem accumulate_rPar (b : Byte) (s : State) : (accumulate b s).rPar = !s.rPar := rfl
@[simp] theorem accumulate_rCklo (b : Byte) (s : State) : (accumulate b s).rCklo = s.rCklo := rfl
@[simp] theorem accumulate_buf (b : Byte) (s : State) : (accumulate b s).buf = s.buf := rfl
@[simp] theorem accumulate_queue (b : Byte) (s : State) : (accumulate b s).queue = s.queue := rfl
@[simp] theorem accumulate_rxEvent (b : Byte) (s : State) : (accumulate b s).rxEvent = s.rxEvent := rfl
@[simp] theorem accumulate_eventLog (b : Byte) (s : State) : (accumulate b s).eventLog = s.eventLog := rfl
@[simp] theorem accumulate_result (b : Byte) (s : State) : (accumulate b s).result = s.result := rfl
@[simp] theorem accumulate_delivered (b : Byte) (s : State) : (accumulate b s).delivered = s.delivered := rfl
@[simp] theorem accumulate_epoch (b : Byte) (s : State) : (accumulate b s).epoch = s.epoch := rfl
@[simp] theorem accumulate_inbox (b : Byte) (s : State) : (accumulate b s).inbox = s.inbox := rfl

/-! ### `goTo` -/

@[simp] theorem goTo_seqCtr (x : RxState) (s : State) : (goTo x s).seqCtr = s.seqCtr := rfl
@[simp] theorem goTo_rxState (x : RxState) (s : State) : (goTo x s).rxState = x := rfl
@[simp] theorem goTo_openFlag (x : RxState) (s : State) : (goTo x s).openFlag = s.openFlag := rfl
@[simp] theorem goTo_faultOverflow (x : RxState) (s : State) : (goTo x s).faultOverflow = s.faultOverflow := rfl
@[simp] theorem goTo_rCtl (x : RxState) (s : State) : (goTo x s).rCtl = s.rCtl := rfl
@[simp] theorem goTo_rSeq (x : RxState) (s : State) : (goTo x s).rSeq = s.rSeq := rfl
@[simp] theorem goTo_rMtype (x : RxState) (s : State) : (goTo x s).rMtype = s.rMtype := rfl
@[simp] theorem goTo_rLen (x : RxState) (s : State) : (goTo x s).rLen = s.rLen := rfl
@[simp] theorem goTo_rCnt (x : RxState) (s : State) : (goTo x s).rCnt = s.rCnt := rfl
@[simp] theorem goTo_rAcc (x : RxState) (s : State) : (goTo x s).rAcc = s.rAcc := rfl
@[simp] theorem goTo_rPar (x : RxState) (s : State) : (goTo x s).rPar = s.rPar := rfl
@[simp] theorem goTo_rCklo (x : RxState) (s : State) : (goTo x s).rCklo = s.rCklo := rfl
@[simp] theorem goTo_buf (x : RxState) (s : State) : (goTo x s).buf = s.buf := rfl
@[simp] theorem goTo_queue (x : RxState) (s : State) : (goTo x s).queue = s.queue := rfl
@[simp] theorem goTo_rxEvent (x : RxState) (s : State) : (goTo x s).rxEvent = s.rxEvent := rfl
@[simp] theorem goTo_eventLog (x : RxState) (s : State) : (goTo x s).eventLog = s.eventLog := rfl
@[simp] theorem goTo_result (x : RxState) (s : State) : (goTo x s).result = s.result := rfl
@[simp] theorem goTo_delivered (x : RxState) (s : State) : (goTo x s).delivered = s.delivered := rfl
@[simp] theorem goTo_epoch (x : RxState) (s : State) : (goTo x s).epoch = s.epoch := rfl
@[simp] theorem goTo_inbox (x : RxState) (s : State) : (goTo x s).inbox = s.inbox := rfl

/-! ### `startFrame` -/

@[simp] theorem startFrame_seqCtr (b : Byte) (s : State) : (startFrame b s).seqCtr = s.seqCtr := rfl
@[simp] theorem startFrame_rxState (b : Byte) (s : State) : (startFrame b s).rxState = s.rxState := rfl
@[simp] theorem startFrame_openFlag (b : Byte) (s : State) : (startFrame b s).openFlag = s.openFlag := rfl
@[simp] theorem startFrame_faultOverflow (b : Byte) (s : State) : (startFrame b s).faultOverflow = s.faultOverflow := rfl
@[simp] theorem startFrame_rCtl (b : Byte) (s : State) : (startFrame b s).rCtl = b := rfl
@[simp] theorem startFrame_rSeq (b : Byte) (s : State) : (startFrame b s).rSeq = s.rSeq := rfl
@[simp] theorem startFrame_rMtype (b : Byte) (s : State) : (startFrame b s).rMtype = s.rMtype := rfl
@[simp] theorem startFrame_rLen (b : Byte) (s : State) : (startFrame b s).rLen = 0#16 := rfl
@[simp] theorem startFrame_rCnt (b : Byte) (s : State) : (startFrame b s).rCnt = 0#16 := rfl
@[simp] theorem startFrame_rAcc (b : Byte) (s : State) : (startFrame b s).rAcc = params.ckSeed := rfl
@[simp] theorem startFrame_rPar (b : Byte) (s : State) : (startFrame b s).rPar = false := rfl
@[simp] theorem startFrame_rCklo (b : Byte) (s : State) : (startFrame b s).rCklo = s.rCklo := rfl
@[simp] theorem startFrame_buf (b : Byte) (s : State) : (startFrame b s).buf = s.buf := rfl
@[simp] theorem startFrame_queue (b : Byte) (s : State) : (startFrame b s).queue = s.queue := rfl
@[simp] theorem startFrame_rxEvent (b : Byte) (s : State) : (startFrame b s).rxEvent = s.rxEvent := rfl
@[simp] theorem startFrame_eventLog (b : Byte) (s : State) : (startFrame b s).eventLog = s.eventLog := rfl
@[simp] theorem startFrame_result (b : Byte) (s : State) : (startFrame b s).result = s.result := rfl
@[simp] theorem startFrame_delivered (b : Byte) (s : State) : (startFrame b s).delivered = s.delivered := rfl
@[simp] theorem startFrame_epoch (b : Byte) (s : State) : (startFrame b s).epoch = s.epoch := rfl
@[simp] theorem startFrame_inbox (b : Byte) (s : State) : (startFrame b s).inbox = s.inbox := rfl

/-! ### `countRegionByte` -/

@[simp] theorem countRegionByte_seqCtr (s : State) : (countRegionByte s).seqCtr = s.seqCtr := rfl
@[simp] theorem countRegionByte_rxState (s : State) : (countRegionByte s).rxState = if s.rCnt + 1#16 = s.rLen then .ckLo else .body := rfl
@[simp] theorem countRegionByte_openFlag (s : State) : (countRegionByte s).openFlag = s.openFlag := rfl
@[simp] theorem countRegionByte_faultOverflow (s : State) : (countRegionByte s).faultOverflow = s.faultOverflow := rfl
@[simp] theorem countRegionByte_rCtl (s : State) : (countRegionByte s).rCtl = s.rCtl := rfl
@[simp] theorem countRegionByte_rSeq (s : State) : (countRegionByte s).rSeq = s.rSeq := rfl
@[simp] theorem countRegionByte_rMtype (s : State) : (countRegionByte s).rMtype = s.rMtype := rfl
@[simp] theorem countRegionByte_rLen (s : State) : (countRegionByte s).rLen = s.rLen := rfl
@[simp] theorem countRegionByte_rCnt (s : State) : (countRegionByte s).rCnt = s.rCnt + 1#16 := rfl
@[simp] theorem countRegionByte_rAcc (s : State) : (countRegionByte s).rAcc = s.rAcc := rfl
@[simp] theorem countRegionByte_rPar (s : State) : (countRegionByte s).rPar = s.rPar := rfl
@[simp] theorem countRegionByte_rCklo (s : State) : (countRegionByte s).rCklo = s.rCklo := rfl
@[simp] theorem countRegionByte_buf (s : State) : (countRegionByte s).buf = s.buf := rfl
@[simp] theorem countRegionByte_queue (s : State) : (countRegionByte s).queue = s.queue := rfl
@[simp] theorem countRegionByte_rxEvent (s : State) : (countRegionByte s).rxEvent = s.rxEvent := rfl
@[simp] theorem countRegionByte_eventLog (s : State) : (countRegionByte s).eventLog = s.eventLog := rfl
@[simp] theorem countRegionByte_result (s : State) : (countRegionByte s).result = s.result := rfl
@[simp] theorem countRegionByte_delivered (s : State) : (countRegionByte s).delivered = s.delivered := rfl
@[simp] theorem countRegionByte_epoch (s : State) : (countRegionByte s).epoch = s.epoch := rfl
@[simp] theorem countRegionByte_inbox (s : State) : (countRegionByte s).inbox = s.inbox := rfl

/-! ### `raiseOverflow` -/

@[simp] theorem raiseOverflow_seqCtr (s : State) : (raiseOverflow s).seqCtr = s.seqCtr := rfl
@[simp] theorem raiseOverflow_rxState (s : State) : (raiseOverflow s).rxState = .fault := rfl
@[simp] theorem raiseOverflow_openFlag (s : State) : (raiseOverflow s).openFlag = s.openFlag := rfl
@[simp] theorem raiseOverflow_faultOverflow (s : State) : (raiseOverflow s).faultOverflow = true := rfl
@[simp] theorem raiseOverflow_rCtl (s : State) : (raiseOverflow s).rCtl = s.rCtl := rfl
@[simp] theorem raiseOverflow_rSeq (s : State) : (raiseOverflow s).rSeq = s.rSeq := rfl
@[simp] theorem raiseOverflow_rMtype (s : State) : (raiseOverflow s).rMtype = s.rMtype := rfl
@[simp] theorem raiseOverflow_rLen (s : State) : (raiseOverflow s).rLen = s.rLen := rfl
@[simp] theorem raiseOverflow_rCnt (s : State) : (raiseOverflow s).rCnt = s.rCnt := rfl
@[simp] theorem raiseOverflow_rAcc (s : State) : (raiseOverflow s).rAcc = s.rAcc := rfl
@[simp] theorem raiseOverflow_rPar (s : State) : (raiseOverflow s).rPar = s.rPar := rfl
@[simp] theorem raiseOverflow_rCklo (s : State) : (raiseOverflow s).rCklo = s.rCklo := rfl
@[simp] theorem raiseOverflow_buf (s : State) : (raiseOverflow s).buf = s.buf := rfl
@[simp] theorem raiseOverflow_queue (s : State) : (raiseOverflow s).queue = s.queue := rfl
@[simp] theorem raiseOverflow_rxEvent (s : State) : (raiseOverflow s).rxEvent = .overflow := rfl
@[simp] theorem raiseOverflow_eventLog (s : State) : (raiseOverflow s).eventLog = .overflow :: s.eventLog := rfl
@[simp] theorem raiseOverflow_result (s : State) : (raiseOverflow s).result = s.result := rfl
@[simp] theorem raiseOverflow_delivered (s : State) : (raiseOverflow s).delivered = s.delivered := rfl
@[simp] theorem raiseOverflow_epoch (s : State) : (raiseOverflow s).epoch = s.epoch := rfl
@[simp] theorem raiseOverflow_inbox (s : State) : (raiseOverflow s).inbox = s.inbox := rfl

/-! ### `resetBlock` -/

@[simp] theorem resetBlock_seqCtr (s : State) : (resetBlock s).seqCtr = params.seqReset := rfl
@[simp] theorem resetBlock_rxState (s : State) : (resetBlock s).rxState = .closed := rfl
@[simp] theorem resetBlock_openFlag (s : State) : (resetBlock s).openFlag = false := rfl
@[simp] theorem resetBlock_faultOverflow (s : State) : (resetBlock s).faultOverflow = false := rfl
@[simp] theorem resetBlock_rCtl (s : State) : (resetBlock s).rCtl = Config.freeByte s.epoch 0 := rfl
@[simp] theorem resetBlock_rSeq (s : State) : (resetBlock s).rSeq = Config.freeByte s.epoch 1 := rfl
@[simp] theorem resetBlock_rMtype (s : State) : (resetBlock s).rMtype = Config.freeByte s.epoch 2 := rfl
@[simp] theorem resetBlock_rLen (s : State) : (resetBlock s).rLen = Config.freeWord s.epoch 0 := rfl
@[simp] theorem resetBlock_rCnt (s : State) : (resetBlock s).rCnt = Config.freeWord s.epoch 1 := rfl
@[simp] theorem resetBlock_rAcc (s : State) : (resetBlock s).rAcc = Config.freeWord s.epoch 2 := rfl
@[simp] theorem resetBlock_rPar (s : State) : (resetBlock s).rPar = Config.freeBit s.epoch := rfl
@[simp] theorem resetBlock_rCklo (s : State) : (resetBlock s).rCklo = Config.freeByte s.epoch 3 := rfl
@[simp] theorem resetBlock_buf (s : State) : (resetBlock s).buf = [] := rfl
@[simp] theorem resetBlock_queue (s : State) : (resetBlock s).queue = [] := rfl
@[simp] theorem resetBlock_rxEvent (s : State) : (resetBlock s).rxEvent = .none := rfl
@[simp] theorem resetBlock_eventLog (s : State) : (resetBlock s).eventLog = s.eventLog := rfl
@[simp] theorem resetBlock_result (s : State) : (resetBlock s).result = s.result := rfl
@[simp] theorem resetBlock_delivered (s : State) : (resetBlock s).delivered = s.delivered := rfl
@[simp] theorem resetBlock_epoch (s : State) : (resetBlock s).epoch = s.epoch + 1 := rfl
@[simp] theorem resetBlock_inbox (s : State) : (resetBlock s).inbox = s.inbox := rfl

/-! ### `give` -/

@[simp] theorem give_seqCtr (r : Result) (s : State) : (give r s).seqCtr = s.seqCtr := rfl
@[simp] theorem give_rxState (r : Result) (s : State) : (give r s).rxState = s.rxState := rfl
@[simp] theorem give_openFlag (r : Result) (s : State) : (give r s).openFlag = s.openFlag := rfl
@[simp] theorem give_faultOverflow (r : Result) (s : State) : (give r s).faultOverflow = s.faultOverflow := rfl
@[simp] theorem give_rCtl (r : Result) (s : State) : (give r s).rCtl = s.rCtl := rfl
@[simp] theorem give_rSeq (r : Result) (s : State) : (give r s).rSeq = s.rSeq := rfl
@[simp] theorem give_rMtype (r : Result) (s : State) : (give r s).rMtype = s.rMtype := rfl
@[simp] theorem give_rLen (r : Result) (s : State) : (give r s).rLen = s.rLen := rfl
@[simp] theorem give_rCnt (r : Result) (s : State) : (give r s).rCnt = s.rCnt := rfl
@[simp] theorem give_rAcc (r : Result) (s : State) : (give r s).rAcc = s.rAcc := rfl
@[simp] theorem give_rPar (r : Result) (s : State) : (give r s).rPar = s.rPar := rfl
@[simp] theorem give_rCklo (r : Result) (s : State) : (give r s).rCklo = s.rCklo := rfl
@[simp] theorem give_buf (r : Result) (s : State) : (give r s).buf = s.buf := rfl
@[simp] theorem give_queue (r : Result) (s : State) : (give r s).queue = s.queue := rfl
@[simp] theorem give_rxEvent (r : Result) (s : State) : (give r s).rxEvent = s.rxEvent := rfl
@[simp] theorem give_eventLog (r : Result) (s : State) : (give r s).eventLog = s.eventLog := rfl
@[simp] theorem give_result (r : Result) (s : State) : (give r s).result = r := rfl
@[simp] theorem give_delivered (r : Result) (s : State) : (give r s).delivered = s.delivered := rfl
@[simp] theorem give_epoch (r : Result) (s : State) : (give r s).epoch = s.epoch := rfl
@[simp] theorem give_inbox (r : Result) (s : State) : (give r s).inbox = s.inbox := rfl

/-! ### `advanceSeq` -/

/-- The counter's successor is addition in 8 bits, so 255 wraps to 0 (R130). -/
theorem nextId_eq (ctr : Byte) : nextId ctr = ctr + 1#8 := by
  apply BitVec.eq_of_toNat_eq
  simp [nextId, show params.seqBits = 8 from rfl]

@[simp] theorem advanceSeq_seqCtr (s : State) : (advanceSeq s).seqCtr = s.seqCtr + 1#8 :=
  nextId_eq s.seqCtr
@[simp] theorem advanceSeq_rxState (s : State) : (advanceSeq s).rxState = s.rxState := rfl
@[simp] theorem advanceSeq_openFlag (s : State) : (advanceSeq s).openFlag = s.openFlag := rfl
@[simp] theorem advanceSeq_faultOverflow (s : State) : (advanceSeq s).faultOverflow = s.faultOverflow := rfl
@[simp] theorem advanceSeq_rCtl (s : State) : (advanceSeq s).rCtl = s.rCtl := rfl
@[simp] theorem advanceSeq_rSeq (s : State) : (advanceSeq s).rSeq = s.rSeq := rfl
@[simp] theorem advanceSeq_rMtype (s : State) : (advanceSeq s).rMtype = s.rMtype := rfl
@[simp] theorem advanceSeq_rLen (s : State) : (advanceSeq s).rLen = s.rLen := rfl
@[simp] theorem advanceSeq_rCnt (s : State) : (advanceSeq s).rCnt = s.rCnt := rfl
@[simp] theorem advanceSeq_rAcc (s : State) : (advanceSeq s).rAcc = s.rAcc := rfl
@[simp] theorem advanceSeq_rPar (s : State) : (advanceSeq s).rPar = s.rPar := rfl
@[simp] theorem advanceSeq_rCklo (s : State) : (advanceSeq s).rCklo = s.rCklo := rfl
@[simp] theorem advanceSeq_buf (s : State) : (advanceSeq s).buf = s.buf := rfl
@[simp] theorem advanceSeq_queue (s : State) : (advanceSeq s).queue = s.queue := rfl
@[simp] theorem advanceSeq_rxEvent (s : State) : (advanceSeq s).rxEvent = s.rxEvent := rfl
@[simp] theorem advanceSeq_eventLog (s : State) : (advanceSeq s).eventLog = s.eventLog := rfl
@[simp] theorem advanceSeq_result (s : State) : (advanceSeq s).result = s.result := rfl
@[simp] theorem advanceSeq_delivered (s : State) : (advanceSeq s).delivered = s.delivered := rfl
@[simp] theorem advanceSeq_epoch (s : State) : (advanceSeq s).epoch = s.epoch := rfl
@[simp] theorem advanceSeq_inbox (s : State) : (advanceSeq s).inbox = s.inbox := rfl

/-! ### `popEntries` -/

@[simp] theorem popEntries_seqCtr (n : Nat) (s : State) : (popEntries n s).seqCtr = s.seqCtr := rfl
@[simp] theorem popEntries_rxState (n : Nat) (s : State) : (popEntries n s).rxState = s.rxState := rfl
@[simp] theorem popEntries_openFlag (n : Nat) (s : State) : (popEntries n s).openFlag = s.openFlag := rfl
@[simp] theorem popEntries_faultOverflow (n : Nat) (s : State) : (popEntries n s).faultOverflow = s.faultOverflow := rfl
@[simp] theorem popEntries_rCtl (n : Nat) (s : State) : (popEntries n s).rCtl = s.rCtl := rfl
@[simp] theorem popEntries_rSeq (n : Nat) (s : State) : (popEntries n s).rSeq = s.rSeq := rfl
@[simp] theorem popEntries_rMtype (n : Nat) (s : State) : (popEntries n s).rMtype = s.rMtype := rfl
@[simp] theorem popEntries_rLen (n : Nat) (s : State) : (popEntries n s).rLen = s.rLen := rfl
@[simp] theorem popEntries_rCnt (n : Nat) (s : State) : (popEntries n s).rCnt = s.rCnt := rfl
@[simp] theorem popEntries_rAcc (n : Nat) (s : State) : (popEntries n s).rAcc = s.rAcc := rfl
@[simp] theorem popEntries_rPar (n : Nat) (s : State) : (popEntries n s).rPar = s.rPar := rfl
@[simp] theorem popEntries_rCklo (n : Nat) (s : State) : (popEntries n s).rCklo = s.rCklo := rfl
@[simp] theorem popEntries_buf (n : Nat) (s : State) : (popEntries n s).buf = s.buf := rfl
@[simp] theorem popEntries_queue (n : Nat) (s : State) : (popEntries n s).queue = s.queue.drop n := rfl
@[simp] theorem popEntries_rxEvent (n : Nat) (s : State) : (popEntries n s).rxEvent = s.rxEvent := rfl
@[simp] theorem popEntries_eventLog (n : Nat) (s : State) : (popEntries n s).eventLog = s.eventLog := rfl
@[simp] theorem popEntries_result (n : Nat) (s : State) : (popEntries n s).result = .entries (s.queue.take n) := rfl
@[simp] theorem popEntries_delivered (n : Nat) (s : State) : (popEntries n s).delivered = (s.queue.take n).reverse ++ s.delivered := rfl
@[simp] theorem popEntries_epoch (n : Nat) (s : State) : (popEntries n s).epoch = s.epoch := rfl
@[simp] theorem popEntries_inbox (n : Nat) (s : State) : (popEntries n s).inbox = s.inbox := rfl

end Sys2Proof.Machine
end

