-- ==== Sys2Proof/Laws/Memory.lean ====
section
/-! SUPPORT. The payload buffer: a read after a write, every other index untouched, the canonical form kept
by every write and held after reset. -/

namespace Sys2Proof.Machine

@[simp] theorem readCell_nil (i : Nat) : readCell i [] = none := rfl

@[simp] theorem readCell_writeCell_same (i : Nat) (b : Byte) (m : Memory) :
    readCell i (writeCell i b m) = some b := by
  induction m with
  | nil => simp [writeCell, readCell]
  | cons c m ih =>
    obtain ⟨k, c⟩ := c
    simp only [writeCell]
    split
    · simp [readCell]
    · split
      · simp [readCell]
      · simp [readCell, ih, show k ≠ i by omega]

theorem readCell_writeCell_other {i j : Nat} (h : j ≠ i) (b : Byte) (m : Memory) :
    readCell j (writeCell i b m) = readCell j m := by
  induction m with
  | nil => simp [writeCell, readCell, h.symm]
  | cons c m ih =>
    obtain ⟨k, c⟩ := c
    simp only [writeCell]
    split
    · simp [readCell, h.symm]
    · split
      · next hk => simp [readCell, h.symm, ← hk]
      · simp [readCell, ih]

theorem wf_single (k : Nat) (b : Byte) : Memory.wf [(k, b)] = true ↔ k < 65535 := decide_eq_true_iff

theorem wf_pair (k k' : Nat) (b b' : Byte) (m : Memory) :
    Memory.wf ((k, b) :: (k', b') :: m) = true ↔ k < k' ∧ Memory.wf ((k', b') :: m) = true := by
  simp [Memory.wf]

/-- The first index of a canonical buffer is inside the space. -/
theorem wf_head {m : Memory} : ∀ {k : Nat} {b : Byte}, Memory.wf ((k, b) :: m) = true → k < 65535 := by
  induction m with
  | nil => intro k b h; exact (wf_single k b).1 h
  | cons c m ih =>
    intro k b h
    have h' := (wf_pair k c.1 b c.2 m).1 h
    have := ih h'.2
    omega

/-- The canonical form, cell by cell. -/
theorem wf_cons (k : Nat) (b : Byte) (m : Memory) :
    Memory.wf ((k, b) :: m) = true ↔
      k < 65535 ∧ (∀ k' b' m', m = (k', b') :: m' → k < k') ∧ Memory.wf m = true := by
  cases m with
  | nil =>
    rw [wf_single]
    exact ⟨fun h => ⟨h, (by rintro _ _ _ ⟨⟩), rfl⟩, fun h => h.1⟩
  | cons c m =>
    obtain ⟨k', b'⟩ := c
    rw [wf_pair]
    constructor
    · rintro ⟨h, hm⟩
      refine ⟨by have := wf_head hm; omega, ?_, hm⟩
      rintro _ _ _ he
      cases he
      exact h
    · rintro ⟨-, h, hm⟩
      exact ⟨h _ _ _ rfl, hm⟩

/-- A write keeps the canonical form (the indices of R28 only). -/
theorem writeCell_wf {i : Nat} {m : Memory} (hi : i < 65535) (hm : Memory.wf m = true) (b : Byte) :
    Memory.wf (writeCell i b m) = true := by
  induction m with
  | nil => exact (wf_single i b).2 hi
  | cons c m ih =>
    obtain ⟨k, c⟩ := c
    have h := (wf_cons k c m).1 hm
    simp only [writeCell]
    split
    · rename_i hik
      exact (wf_cons _ _ _).2 ⟨hi, by rintro _ _ _ he; cases he; exact hik, hm⟩
    · split
      · rename_i hik
        subst hik
        exact (wf_cons _ _ _).2 h
      · refine (wf_cons _ _ _).2 ⟨h.1, ?_, ih h.2.2⟩
        intro k' b' m' he
        cases m with
        | nil => simp only [writeCell, List.cons.injEq, Prod.mk.injEq] at he; omega
        | cons d m =>
          have := h.2.1 d.1 d.2 m rfl
          simp only [writeCell] at he
          split at he
          · cases he; omega
          · split at he <;> cases he <;> omega

/-- The buffer after reset has the canonical form. -/
theorem reset_buf_wf : Memory.wf State.reset.buf = true := rfl

/-- Everything a buffer write can do. -/
theorem bufWrite_cases (i : Nat) (b : Byte) (s : State) :
    (i < 65535 ∧ bufWrite i b s = .next { s with buf := writeCell i b s.buf }) ∨
      (65535 ≤ i ∧ bufWrite i b s = .fault .bufIndexOutOfRange) := by
  by_cases h : i < 65535
  · exact .inl ⟨h, by simp [bufWrite, h]⟩
  · exact .inr ⟨by omega, by simp [bufWrite, h]⟩

theorem bufWrite_next {i : Nat} (h : i < 65535) (b : Byte) (s : State) :
    bufWrite i b s = .next { s with buf := writeCell i b s.buf } := by
  simp [bufWrite, h]

/-- A buffer read sees the buffer and the epoch, nothing else. -/
theorem bufRead_congr {s t : State} (hb : t.buf = s.buf) (he : t.epoch = s.epoch) (i : Nat) :
    bufRead t i = bufRead s i := by
  simp [bufRead, hb, he]

theorem bufRead_written {s : State} {i : Nat} {b : Byte} (h : readCell i s.buf = some b) :
    bufRead s i = b := by
  simp [bufRead, h]

@[simp] theorem bufSlice_zero (s : State) (start : Nat) : bufSlice s start 0 = [] := rfl

@[simp] theorem bufSlice_length (s : State) (start count : Nat) :
    (bufSlice s start count).length = count := by
  simp [bufSlice]

theorem bufSlice_succ (s : State) (start count : Nat) :
    bufSlice s start (count + 1) = bufSlice s start count ++ [bufRead s (start + count)] := by
  simp [bufSlice, List.range_succ]

theorem bufSlice_congr {s t : State} {start count : Nat}
    (h : ∀ k, k < count → bufRead t (start + k) = bufRead s (start + k)) :
    bufSlice t start count = bufSlice s start count := by
  simp only [bufSlice]
  exact List.map_congr_left fun k hk => h k (List.mem_range.1 hk)

end Sys2Proof.Machine
end

