-- ==== Sys2Proof/Laws/Ops.lean ====
section
/-! SUPPORT. One lemma per shared operation that says once everything it can do. -/

namespace Sys2Proof.Machine

/-! ### Outcomes -/

@[simp] theorem andThen_next (s : State) (f : State → Out) : andThen (.next s) f = f s := rfl
@[simp] theorem andThen_fault (r : Fault) (f : State → Out) : andThen (.fault r) f = .fault r := rfl
@[simp] theorem andThen_refused (r : Refusal) (f : State → Out) :
    andThen (.refused r) f = .refused r := rfl

/-- What sequencing can answer: a next state comes from a next state. -/
theorem andThen_eq_next {o : Out} {f : State → Out} {t : State} (h : andThen o f = .next t) :
    ∃ s, o = .next s ∧ f s = .next t := by
  cases o with
  | next s => exact ⟨s, rfl, h⟩
  | fault r => cases h
  | refused r => cases h

@[simp] theorem whenEnabled_true (f : State → Out) (s : State) : whenEnabled true f s = f s := rfl
@[simp] theorem whenEnabled_false (f : State → Out) (s : State) : whenEnabled false f s = .next s := rfl

/-- Everything a guarded event can do: its effect, or nothing at all (R13). -/
theorem whenEnabled_cases (e : Bool) (f : State → Out) (s : State) :
    (e = true ∧ whenEnabled e f s = f s) ∨ (e = false ∧ whenEnabled e f s = .next s) := by
  cases e
  · exact .inr ⟨rfl, rfl⟩
  · exact .inl ⟨rfl, rfl⟩

/-! ### Enabling conditions -/

theorem atBoundary_iff (s : State) :
    atBoundary s = true ↔ s.rxState = .seek ∧ s.openFlag = true := by
  simp [atBoundary]

theorem sentinelEnabled_iff (s : State) :
    sentinelEnabled s = true ↔ s.rxState = .seek ∧ s.openFlag = false := by
  simp [sentinelEnabled]

theorem queueFull_iff (s : State) : queueFull s = true ↔ s.queue.length = 100 := by
  simp [queueFull]

/-- `RX_BYTE` is enabled at a boundary and inside a frame (R152). -/
theorem rxEnabled_iff (s : State) :
    rxEnabled s = true ↔
      s.rxState ≠ .closed ∧ s.rxState ≠ .fault ∧ (s.rxState = .seek → s.openFlag = true) := by
  cases h : s.rxState <;> simp [rxEnabled, h]

/-! ### Queue -/

/-- Everything a push can do (R190): append and go on, or take the exception. -/
theorem push_cases (e : QueueEntry) (goOn : State → State) (s : State) :
    (s.queue.length ≠ 100 ∧ push e goOn s = goOn { s with queue := s.queue ++ [e] }) ∨
      (s.queue.length = 100 ∧ push e goOn s = raiseOverflow s) := by
  by_cases h : s.queue.length = 100
  · exact .inr ⟨h, by simp [push, queueFull, h]⟩
  · exact .inl ⟨h, by simp [push, queueFull, h]⟩

/-- Everything the end of a matching candidate can do (R161): drop, emit or overflow. -/
theorem emitCandidate_cases (s : State) :
    (s.rCtl = 0x02#8 ∧ s.rLen = 0#16 ∧ emitCandidate s = present .zeroLen (goTo .seek s)) ∨
      (¬(s.rCtl = 0x02#8 ∧ s.rLen = 0#16) ∧ s.queue.length = 100 ∧ emitCandidate s = raiseOverflow s) ∨
      (¬(s.rCtl = 0x02#8 ∧ s.rLen = 0#16) ∧ s.queue.length ≠ 100 ∧
        emitCandidate s =
          present .emit (goTo .seek { s with queue := s.queue ++ [.frameEntry (makeFrame s)] })) := by
  by_cases h : s.rCtl = 0x02#8 ∧ s.rLen = 0#16
  · exact .inl ⟨h.1, h.2, by simp [emitCandidate, h.1, h.2]⟩
  · have e : emitCandidate s =
        push (.frameEntry (makeFrame s)) (fun s => present .emit (goTo .seek s)) s := if_neg h
    rcases push_cases (.frameEntry (makeFrame s)) (fun s => present .emit (goTo .seek s)) s with
      ⟨hq, hp⟩ | ⟨hq, hp⟩
    · exact .inr (.inr ⟨h, hq, e.trans hp⟩)
    · exact .inr (.inl ⟨h, hq, e.trans hp⟩)

end Sys2Proof.Machine
end

