-- ==== Sys2Proof/Laws/Codec.lean ====
section
/-! SUPPORT. The transmit codec: everything each operation can hand to its caller. -/

namespace Sys2Proof.Machine

@[simp] theorem drawSeq_snd (returnsOld : Bool) (ctr : Byte) :
    (drawSeq returnsOld ctr).2 = ctr + 1#8 := nextId_eq ctr

/-- Everything `NEXT_SEQ` can answer (R130, D6): the old value or the advanced one. -/
theorem drawSeq_cases (returnsOld : Bool) (ctr : Byte) :
    (returnsOld = true ∧ drawSeq returnsOld ctr = (ctr, ctr + 1#8)) ∨
      (returnsOld = false ∧ drawSeq returnsOld ctr = (ctr + 1#8, ctr + 1#8)) := by
  cases returnsOld <;> simp [drawSeq, nextId_eq]

/-- Everything `ENC_CMD` can do (R131, R132): the frame, or the refusal with the counter as it was. -/
theorem execEncCmd_cases (messageId : Byte) (payload : List Byte) (s : State) :
    (payload.length ≤ 65534 ∧ ∃ field, lenEnc (payload.length + 1) = some field ∧
      execEncCmd messageId payload s =
        .next (give (.bytes (frameBytes 0x02#8 (commandBody (nextSeqValue s) field messageId payload)))
          (advanceSeq s))) ∨
    (65534 < payload.length ∧
      execEncCmd messageId payload s = .next (give (.error .lengthTooLarge) s)) := by
  by_cases h : payload.length ≤ 65534
  · by_cases h' : payload.length + 1 ≤ 255
    · exact .inl ⟨h, _, lenEnc_short h', by simp [execEncCmd, lenEnc_short h']⟩
    · have e := lenEnc_ext (show 255 < payload.length + 1 by omega) (by omega)
      exact .inl ⟨h, _, e, by simp [execEncCmd, e]⟩
  · have e := lenEnc_tooLarge (show 65535 < payload.length + 1 by omega)
    exact .inr ⟨by omega, by simp [execEncCmd, e]⟩

/-- Everything `ENC_ACK` can hand to its caller (R133, R134). -/
theorem ackResult_cases (f : List Byte) :
    (3 ≤ f.length ∧ ackResult f = .bytes (frameBytes 0x06#8 ((f.drop 1).take 2))) ∨
      (f.length < 3 ∧ ackResult f = .error .ackOutOfRange) := by
  by_cases h : 3 ≤ f.length
  · exact .inl ⟨h, by simp [ackResult, h]⟩
  · exact .inr ⟨by omega, by simp [ackResult, h]⟩

@[simp] theorem cksumBytes_length (s : List Byte) : (cksumBytes s).length = 2 := rfl

theorem frameBytes_length (ctl : Byte) (body : List Byte) :
    (frameBytes ctl body).length = body.length + 3 := by
  simp [frameBytes]

end Sys2Proof.Machine
end

