-- ==== Sys2Proof/Laws/Fetch.lean ====
section
/-! SUPPORT. The choice of the next input and the step: everything each can answer. -/

namespace Sys2Proof.Machine

@[simp] theorem putBack_nil (inbox : List Input) : putBack [] inbox = inbox := rfl

theorem putBack_cons (b : Byte) (rest : List Byte) (inbox : List Input) :
    putBack (b :: rest) inbox = .bytes (b :: rest) :: inbox := by
  simp [putBack]

@[simp] theorem choose_nil (s : State) (waiting : List Agent) : choose s waiting [] = .idle := rfl

/-- What an input that waits leaves of a choice: the same event, with the input kept. -/
theorem keepWaiting_eq_run {w : Input} {c : Choice} {i : Instr} {inbox : List Input}
    (h : keepWaiting w c = .run i inbox) : ∃ inbox', c = .run i inbox' ∧ inbox = w :: inbox' := by
  cases c with
  | run j inbox' => cases h; exact ⟨_, rfl, rfl⟩
  | wrongParty => cases h
  | idle => cases h

/-- What the link's bytes at the front can do while they may be taken (R152). -/
theorem chooseBytes_cases (s : State) (bytes : List Byte) (rest : List Input) (later : Choice) :
    (∃ i more, rxEnabled s = true ∧ decode s.rxState bytes = .ok i more ∧
      chooseBytes s bytes rest later = .run i (putBack more rest)) ∨
    chooseBytes s bytes rest later = keepWaiting (.bytes bytes) later := by
  unfold chooseBytes
  cases hf : fetch s bytes with
  | ok i more =>
    unfold fetch at hf
    split at hf
    · exact .inl ⟨i, more, by assumption, hf, rfl⟩
    · cases hf
  | reject r => exact .inr rfl

/-- What a call at the front can do (R13, R223). -/
theorem chooseCall_cases (s : State) (a : Agent) (i : Instr) (rest : List Input) (later : Choice) :
    (mayPerform a i = true ∧ enabled i s = true ∧ chooseCall s a i rest later = .run i rest) ∨
    (mayPerform a i = true ∧ enabled i s = false ∧
      chooseCall s a i rest later = keepWaiting (.call a i) later) ∨
    (mayPerform a i = false ∧ chooseCall s a i rest later = .wrongParty) := by
  cases hm : mayPerform a i <;> cases he : enabled i s <;> simp [chooseCall, hm, he]

/-- Everything a step can do. -/
theorem step_cases (s : State) :
    (∃ i inbox, choose s [] s.inbox = .run i inbox ∧ step s = exec i { s with inbox := inbox }) ∨
    (choose s [] s.inbox = .wrongParty ∧ step s = .refused .wrongParty) ∨
    (choose s [] s.inbox = .idle ∧ sentinelEnabled s = true ∧ step s = exec .sentinel s) ∨
    (choose s [] s.inbox = .idle ∧ sentinelEnabled s = false ∧ step s = .next s) := by
  unfold step
  cases choose s [] s.inbox with
  | run i inbox => exact .inl ⟨i, inbox, rfl, rfl⟩
  | wrongParty => exact .inr (.inl ⟨rfl, rfl⟩)
  | idle =>
    cases h : sentinelEnabled s
    · exact .inr (.inr (.inr ⟨rfl, rfl, by simp⟩))
    · exact .inr (.inr (.inl ⟨rfl, rfl, by simp⟩))

end Sys2Proof.Machine
end

