-- ==== Sys2Proof/Laws/PerInstr.lean ====
section
/-! SUPPORT. A family of statements made for each instruction: the size of its wire encoding in bytes. -/

namespace Sys2Proof.Laws.WireSize

/-- The size in bytes of an instruction's bytes on the wire, where it has any: a StartOfFrame frame is 6 or 8
bytes and its region, the other frames 5 bytes (R81 to R84), an abandoned candidate 3 (R93), a noise byte, a
code value and a byte event 1 (R85 to R87, R92, R150). -/
def size : Instr → Nat
  | .sofShortCmd _ region _ => 6 + region.length
  | .sofExtCmd _ region _ => 8 + region.length
  | .sofShortRsp _ region _ => 6 + region.length
  | .sofExtRsp _ region _ => 8 + region.length
  | .sofShortNtf _ region _ => 6 + region.length
  | .sofExtNtf _ region _ => 8 + region.length
  | .eotCmd _ _ => 5
  | .eotRsp _ _ => 5
  | .eotNtf _ _ => 5
  | .ackCmd _ _ => 5
  | .ackRsp _ _ => 5
  | .ackNtf _ _ => 5
  | .ctlUnrecognised _ => 1
  | .mtUnrecognised _ _ _ => 3
  | .ctlSof => 1
  | .ctlEot => 1
  | .ctlAck => 1
  | .mtCommand => 1
  | .mtResponse => 1
  | .mtNotification => 1
  | .lenEsc => 1
  | .ckSeed => 0
  | .cksum _ => 0
  | .cksumBytes _ => 0
  | .lenEnc _ => 0
  | .lenDec _ => 0
  | .nextSeq => 0
  | .encCmd _ _ => 0
  | .encAck _ => 0
  | .rxSeek _ => 0
  | .rxHdrSeq _ => 1
  | .rxHdrType _ => 1
  | .rxLen0 _ => 1
  | .rxLenHi _ => 1
  | .rxLenLo _ => 1
  | .rxBody _ => 1
  | .rxCkLo _ => 1
  | .rxCkHi _ => 1
  | .pop => 0
  | .openReader => 0
  | .closeReader => 0
  | .sentinel => 0
  | .reset => 0
  | .rxString _ => 0
  | .encAckPair _ _ => 0
  | .ackOf _ => 0
  | .drain => 0

/-- The encoding of a well-formed instruction has the size the opcode table gives its row. -/
def Statement (i : Instr) : Prop :=
  WellFormed i = true → ∀ (pos : RxState) (bytes : List Byte),
    encode i = some (pos, bytes) → bytes.length = size i

theorem sofShortCmd (seq : Byte) (region : List Byte) (ck : Word) : Statement (.sofShortCmd seq region ck) := by
  intro _ pos bytes h
  cases h
  simp [size, sofShortBytes]
  omega

theorem sofExtCmd (seq : Byte) (region : List Byte) (ck : Word) : Statement (.sofExtCmd seq region ck) := by
  intro _ pos bytes h
  cases h
  simp [size, sofExtBytes]
  omega

theorem sofShortRsp (seq : Byte) (region : List Byte) (ck : Word) : Statement (.sofShortRsp seq region ck) := by
  intro _ pos bytes h
  cases h
  simp [size, sofShortBytes]
  omega

theorem sofExtRsp (seq : Byte) (region : List Byte) (ck : Word) : Statement (.sofExtRsp seq region ck) := by
  intro _ pos bytes h
  cases h
  simp [size, sofExtBytes]
  omega

theorem sofShortNtf (seq : Byte) (region : List Byte) (ck : Word) : Statement (.sofShortNtf seq region ck) := by
  intro _ pos bytes h
  cases h
  simp [size, sofShortBytes]
  omega

theorem sofExtNtf (seq : Byte) (region : List Byte) (ck : Word) : Statement (.sofExtNtf seq region ck) := by
  intro _ pos bytes h
  cases h
  simp [size, sofExtBytes]
  omega

theorem eotCmd (seq : Byte) (ck : Word) : Statement (.eotCmd seq ck) := by
  intro _ pos bytes h
  cases h
  rfl

theorem eotRsp (seq : Byte) (ck : Word) : Statement (.eotRsp seq ck) := by
  intro _ pos bytes h
  cases h
  rfl

theorem eotNtf (seq : Byte) (ck : Word) : Statement (.eotNtf seq ck) := by
  intro _ pos bytes h
  cases h
  rfl

theorem ackCmd (seq : Byte) (ck : Word) : Statement (.ackCmd seq ck) := by
  intro _ pos bytes h
  cases h
  rfl

theorem ackRsp (seq : Byte) (ck : Word) : Statement (.ackRsp seq ck) := by
  intro _ pos bytes h
  cases h
  rfl

theorem ackNtf (seq : Byte) (ck : Word) : Statement (.ackNtf seq ck) := by
  intro _ pos bytes h
  cases h
  rfl

theorem ctlUnrecognised (b : Byte) : Statement (.ctlUnrecognised b) := by
  intro _ pos bytes h
  cases h
  rfl

theorem mtUnrecognised (ctl seq mtype : Byte) : Statement (.mtUnrecognised ctl seq mtype) := by
  intro _ pos bytes h
  cases h
  rfl

theorem ctlSof : Statement (.ctlSof) := by
  intro _ pos bytes h
  cases h
  rfl

theorem ctlEot : Statement (.ctlEot) := by
  intro _ pos bytes h
  cases h
  rfl

theorem ctlAck : Statement (.ctlAck) := by
  intro _ pos bytes h
  cases h
  rfl

theorem mtCommand : Statement (.mtCommand) := by
  intro _ pos bytes h
  cases h
  rfl

theorem mtResponse : Statement (.mtResponse) := by
  intro _ pos bytes h
  cases h
  rfl

theorem mtNotification : Statement (.mtNotification) := by
  intro _ pos bytes h
  cases h
  rfl

theorem lenEsc : Statement (.lenEsc) := by
  intro _ pos bytes h
  cases h
  rfl

theorem ckSeed : Statement (.ckSeed) := by
  intro _ pos bytes h
  cases h

theorem cksum (s : List Byte) : Statement (.cksum s) := by
  intro _ pos bytes h
  cases h

theorem cksumBytes (s : List Byte) : Statement (.cksumBytes s) := by
  intro _ pos bytes h
  cases h

theorem lenEnc (n : Nat) : Statement (.lenEnc n) := by
  intro _ pos bytes h
  cases h

theorem lenDec (s : List Byte) : Statement (.lenDec s) := by
  intro _ pos bytes h
  cases h

theorem nextSeq : Statement (.nextSeq) := by
  intro _ pos bytes h
  cases h

theorem encCmd (messageId : Byte) (payload : List Byte) : Statement (.encCmd messageId payload) := by
  intro _ pos bytes h
  cases h

theorem encAck (f : List Byte) : Statement (.encAck f) := by
  intro _ pos bytes h
  cases h

theorem rxSeek (b : Byte) : Statement (.rxSeek b) := by
  intro _ pos bytes h
  cases h

theorem rxHdrSeq (b : Byte) : Statement (.rxHdrSeq b) := by
  intro _ pos bytes h
  cases h
  rfl

theorem rxHdrType (b : Byte) : Statement (.rxHdrType b) := by
  intro _ pos bytes h
  simp only [encode] at h
  split at h
  · cases h
  · cases h; rfl

theorem rxLen0 (b : Byte) : Statement (.rxLen0 b) := by
  intro _ pos bytes h
  simp only [encode] at h
  split at h
  · cases h
  · cases h; rfl

theorem rxLenHi (b : Byte) : Statement (.rxLenHi b) := by
  intro _ pos bytes h
  cases h
  rfl

theorem rxLenLo (b : Byte) : Statement (.rxLenLo b) := by
  intro _ pos bytes h
  cases h
  rfl

theorem rxBody (b : Byte) : Statement (.rxBody b) := by
  intro _ pos bytes h
  cases h
  rfl

theorem rxCkLo (b : Byte) : Statement (.rxCkLo b) := by
  intro _ pos bytes h
  cases h
  rfl

theorem rxCkHi (b : Byte) : Statement (.rxCkHi b) := by
  intro _ pos bytes h
  cases h
  rfl

theorem pop : Statement (.pop) := by
  intro _ pos bytes h
  cases h

theorem openReader : Statement (.openReader) := by
  intro _ pos bytes h
  cases h

theorem closeReader : Statement (.closeReader) := by
  intro _ pos bytes h
  cases h

theorem sentinel : Statement (.sentinel) := by
  intro _ pos bytes h
  cases h

theorem reset : Statement (.reset) := by
  intro _ pos bytes h
  cases h

theorem rxString (s : List Byte) : Statement (.rxString s) := by
  intro _ pos bytes h
  cases h

theorem encAckPair (seq mtype : Byte) : Statement (.encAckPair seq mtype) := by
  intro _ pos bytes h
  cases h

theorem ackOf (f : Frame) : Statement (.ackOf f) := by
  intro _ pos bytes h
  cases h

theorem drain : Statement (.drain) := by
  intro _ pos bytes h
  cases h

end Sys2Proof.Laws.WireSize
end

