-- ==== Sys2Proof/Laws/Reader.lean ====
section
/-! SUPPORT. The reader: everything one byte event can do, and what a run of bytes does. -/

namespace Sys2Proof.Machine

/-! ### One byte event in each state (R153 to R161) -/

theorem rxByte_seek {s : State} (h : s.rxState = .seek) (ho : s.openFlag = true) (b : Byte) :
    rxByte b s =
      .next (present .none (if isControl b then goTo .hdrSeq (startFrame b s) else s)) := by
  simp [rxByte, execRxSeek, atBoundary, h, ho]

theorem rxByte_hdrSeq {s : State} (h : s.rxState = .hdrSeq) (b : Byte) :
    rxByte b s = .next (present .none (goTo .hdrType (accumulate b { s with rSeq := b }))) := by
  simp [rxByte, execRxHdrSeq, h]

theorem rxByte_hdrType {s : State} (h : s.rxState = .hdrType) (b : Byte) :
    rxByte b s =
      .next (if isMessageType b then
          present .none (goTo (afterType s.rCtl) (accumulate b { s with rMtype := b }))
        else present .badMtype (goTo .seek (accumulate b { s with rMtype := b }))) := by
  simp [rxByte, execRxHdrType, h]

theorem rxByte_len0 {s : State} (h : s.rxState = .len0) (b : Byte) :
    rxByte b s =
      .next (present .none
        (if b = 0x82#8 then goTo .lenHi (accumulate b s)
        else goTo (afterLength (b.setWidth 16)) (accumulate b { s with rLen := b.setWidth 16 }))) := by
  simp [rxByte, execRxLen0, h]

theorem rxByte_lenHi {s : State} (h : s.rxState = .lenHi) (b : Byte) :
    rxByte b s =
      .next (present .none (goTo .lenLo (accumulate b { s with rLen := word b 0x00 }))) := by
  simp [rxByte, execRxLenHi, h]

theorem rxByte_lenLo {s : State} (h : s.rxState = .lenLo) (b : Byte) :
    rxByte b s =
      .next (present .none (goTo (afterLength (word (hiByte s.rLen) b))
        (accumulate b { s with rLen := word (hiByte s.rLen) b }))) := by
  simp [rxByte, execRxLenLo, h]

theorem rxByte_body {s : State} (h : s.rxState = .body) (hc : s.rCnt.toNat < 65535) (b : Byte) :
    rxByte b s =
      .next (present .none (countRegionByte
        { accumulate b s with buf := writeCell s.rCnt.toNat b s.buf })) := by
  simp [rxByte, execRxBody, h, bufWrite_next hc]

theorem rxByte_body_outOfRange {s : State} (h : s.rxState = .body) (hc : 65535 ≤ s.rCnt.toNat)
    (b : Byte) : rxByte b s = .fault .bufIndexOutOfRange := by
  simp [rxByte, execRxBody, h, bufWrite, Nat.not_lt.2 hc]

theorem rxByte_ckLo {s : State} (h : s.rxState = .ckLo) (b : Byte) :
    rxByte b s = .next (present .none (goTo .ckHi { s with rCklo := b })) := by
  simp [rxByte, execRxCkLo, h]

theorem rxByte_ckHi {s : State} (h : s.rxState = .ckHi) (b : Byte) :
    rxByte b s =
      .next (if word b s.rCklo = s.rAcc then emitCandidate s
        else present .badCksum (goTo .seek s)) := by
  simp [rxByte, execRxCkHi, h]

theorem rxByte_waits {s : State} (h : rxEnabled s = false) (b : Byte) : rxByte b s = .next s := by
  cases hs : s.rxState <;> simp_all [rxEnabled, rxByte, execRxSeek, atBoundary]

/-! ### Runs of bytes (R100) -/

@[simp] theorem deliver_nil (s : State) : deliver [] s = .next s := rfl

theorem deliver_cons {s t : State} {b : Byte} (h : rxEnabled s = true) (hb : rxByte b s = .next t)
    (rest : List Byte) : deliver (b :: rest) s = deliver rest t := by
  simp [deliver, h, hb]

theorem deliver_waits {s : State} (h : rxEnabled s = false) (b : Byte) (rest : List Byte) :
    deliver (b :: rest) s = .next { s with inbox := .bytes (b :: rest) :: s.inbox } := by
  simp [deliver, h, putBack]

/-! ### The region (R159) -/

/-- The buffer with a byte string stored from an index on. -/
def storeBytes (i : Nat) : List Byte → Memory → Memory
  | [], m => m
  | b :: rest, m => storeBytes (i + 1) rest (writeCell i b m)

@[simp] theorem storeBytes_nil (i : Nat) (m : Memory) : storeBytes i [] m = m := rfl
@[simp] theorem storeBytes_cons (i : Nat) (b : Byte) (rest : List Byte) (m : Memory) :
    storeBytes i (b :: rest) m = storeBytes (i + 1) rest (writeCell i b m) := rfl

theorem readCell_storeBytes_below {i j : Nat} (h : j < i) (bytes : List Byte) (m : Memory) :
    readCell j (storeBytes i bytes m) = readCell j m := by
  induction bytes generalizing i m with
  | nil => rfl
  | cons b bytes ih => simp [ih (show j < i + 1 by omega), readCell_writeCell_other (show j ≠ i by omega)]

theorem readCell_storeBytes_above {i j : Nat} (bytes : List Byte) (m : Memory)
    (h : i + bytes.length ≤ j) : readCell j (storeBytes i bytes m) = readCell j m := by
  induction bytes generalizing i m with
  | nil => rfl
  | cons b bytes ih =>
    simp only [List.length_cons] at h
    simp [ih _ (show i + 1 + bytes.length ≤ j by omega), readCell_writeCell_other (show j ≠ i by omega)]

theorem readCell_storeBytes_inside {i k : Nat} (bytes : List Byte) (m : Memory)
    (h : k < bytes.length) : readCell (i + k) (storeBytes i bytes m) = some (bytes.getD k 0) := by
  induction bytes generalizing i k m with
  | nil => simp at h
  | cons b bytes ih =>
    cases k with
    | zero => simp [readCell_storeBytes_below (show i < i + 1 by omega)]
    | succ k =>
      have := ih (i := i + 1) (k := k) (writeCell i b m) (by simpa using h)
      simpa [Nat.add_assoc, Nat.add_comm 1 k] using this

theorem storeBytes_wf {i : Nat} {bytes : List Byte} {m : Memory} (h : i + bytes.length ≤ 65535)
    (hm : Memory.wf m = true) : Memory.wf (storeBytes i bytes m) = true := by
  induction bytes generalizing i m with
  | nil => exact hm
  | cons b bytes ih =>
    simp only [List.length_cons] at h
    exact ih (by omega) (writeCell_wf (by omega) hm b)

/-- The state after the whole rest of a region has been consumed in BODY. -/
def afterRegion (region : List Byte) (s : State) : State :=
  { s with
    rAcc := (accRun s.rAcc s.rPar region).1
    rPar := (accRun s.rAcc s.rPar region).2
    buf := storeBytes s.rCnt.toNat region s.buf
    rCnt := s.rLen
    rxState := .ckLo
    rxEvent := .none }

/-- Exactly the bytes that are left of a region are consumed and stored, and the reader goes on to the
checksum. -/
theorem deliver_region {region : List Byte} {s : State} (hne : region ≠ []) (hs : s.rxState = .body)
    (hlen : s.rCnt.toNat + region.length = s.rLen.toNat) (rest : List Byte) :
    deliver (region ++ rest) s = deliver rest (afterRegion region s) := by
  induction region generalizing s with
  | nil => exact absurd rfl hne
  | cons b region ih =>
    have hlt := s.rLen.isLt
    simp only [List.length_cons] at hlen
    have hstep := rxByte_body hs (show s.rCnt.toNat < 65535 by omega) b
    rw [List.cons_append, deliver_cons (by simp [rxEnabled, hs]) hstep]
    have hcnt : (s.rCnt + 1#16).toNat = s.rCnt.toNat + 1 := by
      rw [BitVec.toNat_add]
      exact Nat.mod_eq_of_lt (by simp; omega)
    by_cases hr : region = []
    · subst hr
      have hend : s.rCnt + 1#16 = s.rLen := BitVec.eq_of_toNat_eq (by rw [hcnt]; simpa using hlen)
      congr 1
      simp [afterRegion, countRegionByte, present, goTo, accumulate, hend]
    · have hgo : s.rCnt + 1#16 ≠ s.rLen := by
        intro h
        have : region.length ≠ 0 := by simpa using hr
        rw [h] at hcnt
        omega
      rw [ih hr (by simp [hgo]) (by simp [hcnt]; omega)]
      congr 1
      simp [afterRegion, countRegionByte, present, goTo, accumulate, hcnt]

/-! ### Headers and checksums (R153 to R156, R160, R161) -/

/-- The state in which the header pair of a candidate has been consumed, before the length or checksum. -/
def afterPair (ctl seq mtype : Byte) (s : State) : State :=
  { s with
    rCtl := ctl
    rSeq := seq
    rMtype := mtype
    rLen := 0#16
    rCnt := 0#16
    rAcc := (accRun 0x5725#16 false [seq, mtype]).1
    rPar := false
    rxState := afterType ctl
    rxEvent := .none }

/-- The three bytes that start a candidate with a recognised type. -/
theorem deliver_pair {s : State} (hs : atBoundary s = true) {ctl seq mtype : Byte}
    (hc : isControl ctl = true) (hm : isMessageType mtype = true) (rest : List Byte) :
    deliver (ctl :: seq :: mtype :: rest) s = deliver rest (afterPair ctl seq mtype s) := by
  obtain ⟨h, ho⟩ := (atBoundary_iff s).1 hs
  rw [deliver_cons (by simp [rxEnabled, h, ho]) (rxByte_seek h ho ctl), hc, if_pos rfl,
    deliver_cons (by simp [rxEnabled]) (rxByte_hdrSeq (by simp) seq),
    deliver_cons (by simp [rxEnabled]) (rxByte_hdrType (by simp) mtype), hm, if_pos rfl]
  rfl

/-- The two checksum bytes of a candidate. -/
theorem deliver_checksum {s : State} (hs : s.rxState = .ckLo) (ck : Word) :
    deliver (littleEndian ck) s =
      .next (if ck = s.rAcc then emitCandidate { s with rCklo := loByte ck, rxState := .ckHi, rxEvent := .none }
        else present .badCksum (goTo .seek { s with rCklo := loByte ck })) := by
  rw [littleEndian_eq, deliver_cons (by simp [rxEnabled, hs]) (rxByte_ckLo hs _),
    deliver_cons (by simp [rxEnabled]) (rxByte_ckHi (by simp) _), deliver_nil]
  simp only [present_rCklo, goTo_rCklo, word_hiByte_loByte, present_rAcc, goTo_rAcc]
  split <;> rfl

end Sys2Proof.Machine
end

