-- ==== Sys2Proof/Laws/Safety.lean ====
section
/-! SUPPORT. Quiescence and waiting inputs, in the words of R243 and R13. -/

namespace Sys2Proof.Machine

/-- Quiescence as R243 words it: closed, faulted, or waiting for a byte the link does not have. -/
theorem quiescent_iff (s : State) :
    Quiescent s ↔
      s.rxState = .closed ∨ s.rxState = .fault ∨
        (rxEnabled s = true ∧ ∀ x, x ∈ s.inbox → offersByte x = false) := by
  unfold Quiescent
  cases h : s.rxState <;> cases ho : s.openFlag <;> simp [sentinelEnabled, rxEnabled, h, ho]

theorem waits_call (s : State) (a : Agent) (i : Instr) :
    waits s (.call a i) = true ↔ mayPerform a i = true ∧ enabled i s = false := by
  simp [waits]

theorem waits_bytes (s : State) (bytes : List Byte) :
    waits s (.bytes bytes) = true ↔ bytes ≠ [] ∧ rxEnabled s = false := by
  simp [waits]

/-- What is left of a choice when an input that waits for its agent is first: the same event, with the input
in its place (R13, R65). -/
theorem choose_waiting {s : State} {x : Input} (h : waits s x = true) (rest : List Input) :
    choose s [] (x :: rest) = keepWaiting x (choose s [x.agent] rest) := by
  cases x with
  | bytes bytes =>
    obtain ⟨hb, hr⟩ := (waits_bytes s bytes).1 h
    simp [choose, chooseBytes, fetch, hb, hr, Input.agent]
  | call a i =>
    obtain ⟨hm, he⟩ := (waits_call s a i).1 h
    simp [choose, chooseCall, hm, he, Input.agent]

/-- An input of an agent that already waits is passed over (R65). -/
theorem choose_later {s : State} {y : Input} {waiting : List Agent} (h : waiting.contains y.agent = true)
    (rest : List Input) : choose s waiting (y :: rest) = keepWaiting y (choose s waiting rest) := by
  cases y <;> simp_all [choose, Input.agent]

end Sys2Proof.Machine
end

