-- ==== Sys2Proof/Laws/Wire.lean ====
section
/-! SUPPORT. Whole candidates: what the reader has done when it comes to the checksum of a StartOfFrame frame
of either length form, and the rows of the wire at and away from a frame boundary. -/

namespace Sys2Proof.Machine

theorem shortRegion_iff (region : List Byte) :
    shortRegion region = true ↔ region.length ≤ 255 ∧ BitVec.ofNat 8 region.length ≠ 0x82#8 := by
  rw [shortRegion, Bool.and_eq_true, bne_iff_ne]
  exact and_congr decide_eq_true_iff Iff.rfl

theorem extRegion_iff (region : List Byte) : extRegion region = true ↔ region.length ≤ 65535 :=
  decide_eq_true_iff

/-- A candidate row away from a frame boundary does not happen (R13). -/
theorem candidate_waits {s : State} (h : atBoundary s = false) (bytes : List Byte) :
    candidate bytes s = .next s := by
  simp [candidate, h]

/-- A candidate row at a frame boundary is the reader consuming its bytes. -/
theorem candidate_runs {s : State} (h : atBoundary s = true) (bytes : List Byte) :
    candidate bytes s = deliver bytes s := by
  simp [candidate, h]

/-- The state in which everything of a candidate but its checksum has been consumed: the registers spell the
candidate, the running checksum has seen `covered`, and the region is stored from index 0. -/
def beforeChecksum (ctl seq mtype : Byte) (covered region : List Byte) (s : State) : State :=
  { s with
    rCtl := ctl
    rSeq := seq
    rMtype := mtype
    rLen := BitVec.ofNat 16 region.length
    rCnt := BitVec.ofNat 16 region.length
    rAcc := (accRun 0x5725#16 false covered).1
    rPar := (accRun 0x5725#16 false covered).2
    buf := storeBytes 0 region s.buf
    rxState := .ckLo
    rxEvent := .none }

/-- The region from its first byte on, empty or not. -/
theorem deliver_whole_region {region : List Byte} {s : State} (hs : s.rxState = afterLength s.rLen)
    (hl : s.rLen.toNat = region.length) (hc : s.rCnt = 0#16) (he : s.rxEvent = .none)
    (rest : List Byte) : deliver (region ++ rest) s = deliver rest (afterRegion region s) := by
  by_cases h : region = []
  · subst h
    have h0 : s.rLen = 0#16 := BitVec.eq_of_toNat_eq (by simpa using hl)
    simp only [afterLength, h0, if_true] at hs
    congr 1
    cases s
    simp_all [afterRegion]
  · have h0 : s.rLen ≠ 0#16 := by
      intro h0
      rw [h0] at hl
      exact h (List.eq_nil_of_length_eq_zero hl.symm)
    rw [deliver_region h (by rw [hs, afterLength, if_neg h0]) (by simp [hc, hl])]

/-- The state at the checksum, from the state at the region's first byte. -/
theorem afterRegion_eq {ctl seq mtype : Byte} {header region : List Byte} {s u : State}
    (hu : u = { s with
      rCtl := ctl
      rSeq := seq
      rMtype := mtype
      rLen := BitVec.ofNat 16 region.length
      rCnt := 0#16
      rAcc := (accRun 0x5725#16 false header).1
      rPar := (accRun 0x5725#16 false header).2
      rxState := u.rxState
      rxEvent := .none }) :
    afterRegion region u = beforeChecksum ctl seq mtype (header ++ region) region s := by
  unfold afterRegion beforeChecksum
  rw [accRun_append, hu]
  rfl

/-- A StartOfFrame candidate with a one-byte length, up to its checksum (R81, R153 to R159). -/
theorem deliver_short {s : State} (hs : atBoundary s = true) {mtype : Byte}
    (hm : isMessageType mtype = true) (seq : Byte) {region : List Byte}
    (hr : shortRegion region = true) (rest : List Byte) :
    deliver (0x02#8 :: seq :: mtype :: BitVec.ofNat 8 region.length :: (region ++ rest)) s =
      deliver rest (beforeChecksum 0x02#8 seq mtype
        (seq :: mtype :: BitVec.ofNat 8 region.length :: region) region s) := by
  obtain ⟨hl, hn⟩ := (shortRegion_iff region).1 hr
  have hz : (BitVec.ofNat 8 region.length).setWidth 16 = BitVec.ofNat 16 region.length := by
    apply BitVec.eq_of_toNat_eq
    simp
    omega
  rw [deliver_pair hs (by decide) hm,
    deliver_cons (by simp [rxEnabled, afterPair, afterType])
      (rxByte_len0 (by simp [afterPair, afterType]) _), if_neg hn,
    deliver_whole_region (by simp) (by simp [hz]; omega) (by simp [afterPair]) (by simp)]
  congr 1
  exact afterRegion_eq (header := [seq, mtype, _]) (by
    simp [afterPair, present, goTo, accumulate, hz])

/-- A StartOfFrame candidate with the extended length, up to its checksum (R82, R153 to R159). -/
theorem deliver_ext {s : State} (hs : atBoundary s = true) {mtype : Byte}
    (hm : isMessageType mtype = true) (seq : Byte) {region : List Byte}
    (hr : extRegion region = true) (rest : List Byte) :
    deliver (0x02#8 :: seq :: mtype :: 0x82#8 ::
        (bigEndian (BitVec.ofNat 16 region.length) ++ (region ++ rest))) s =
      deliver rest (beforeChecksum 0x02#8 seq mtype
        (seq :: mtype :: 0x82#8 :: (bigEndian (BitVec.ofNat 16 region.length) ++ region)) region s) := by
  have hl := (extRegion_iff region).1 hr
  rw [deliver_pair hs (by decide) hm,
    deliver_cons (by simp [rxEnabled, afterPair, afterType])
      (rxByte_len0 (by simp [afterPair, afterType]) _), if_pos rfl]
  simp only [bigEndian, List.cons_append, List.nil_append]
  rw [deliver_cons (by simp [rxEnabled]) (rxByte_lenHi (by simp) _),
    deliver_cons (by simp [rxEnabled]) (rxByte_lenLo (by simp) _),
    deliver_whole_region (by simp) (by simp; omega) (by simp [afterPair]) (by simp)]
  congr 1
  exact afterRegion_eq (header := [seq, mtype, 0x82#8, _, _]) (by
    simp [afterPair, present, goTo, accumulate])

end Sys2Proof.Machine
end

