-- ==== Sys2Proof/Tests/Slice0.lean ====
section
/-! SUPPORT. Tests: the checks of WellFormed, the decoding of words written out from the encoding tables, one
or two steps of every instruction with the expected results of `95_test_vectors.md` (V-…) or worked out by
hand from the rule named, and for every statement with hypotheses a witness that meets them. -/

namespace Sys2Proof.Machine.Tests

/-! ### Small states and what a test looks at -/

/-- The reader at a frame boundary, after `RESET; OPEN`. -/
def boundary : State := { State.reset with rxState := .seek, openFlag := true }

/-- A state of the reader inside a frame, with the category of the candidate. -/
def inside (x : RxState) (ctl : Byte) : State := { boundary with rxState := x, rCtl := ctl }

/-- A state whose queue holds a number of entries. -/
def holding (n : Nat) (s : State) : State := { s with queue := List.replicate n .sentinel }

/-- The next state, where the outcome is one. -/
def nextOf : Out → Option State
  | .next t => some t
  | .fault _ => none
  | .refused _ => none

/-- Reader state, event and queue after an outcome. -/
def seen (o : Out) : Option (RxState × EventCode × List QueueEntry) :=
  (nextOf o).map fun t => (t.rxState, t.rxEvent, t.queue)

/-- What an outcome hands to the caller. -/
def given (o : Out) : Option Result := (nextOf o).map State.result

/-- Reader state, header, length, count, checksum and parity registers. -/
structure Registers where
  state : RxState
  ctl : Byte
  seq : Byte
  mtype : Byte
  len : Word
  cnt : Word
  acc : Word
  par : Bool
  deriving DecidableEq, Repr

/-- Those registers after an outcome. -/
def registers (o : Out) : Option Registers :=
  (nextOf o).map fun t => ⟨t.rxState, t.rCtl, t.rSeq, t.rMtype, t.rLen, t.rCnt, t.rAcc, t.rPar⟩

/-- The frame of V-RX-1, "A". -/
def frameA : Frame := ⟨0x02, 0x00, 0xA0, 1, some 0xF0, [], 0x5675⟩

/-- The bytes of frame A. -/
def bytesA : List Byte := [0x02, 0x00, 0xA0, 0x01, 0xF0, 0x75, 0x56]

/-! ### WellFormed refuses -/

theorem test_short_region_130_ill_formed :
    WellFormed (.sofShortCmd 0 (List.replicate 130 0) 0) = false ∧
    WellFormed (.sofShortRsp 0 (List.replicate 130 0) 0) = false ∧
    WellFormed (.sofShortNtf 0 (List.replicate 130 0) 0) = false := by decide +kernel

theorem test_short_region_256_ill_formed :
    WellFormed (.sofShortCmd 0 (List.replicate 256 0) 0) = false ∧
    WellFormed (.sofShortRsp 0 (List.replicate 256 0) 0) = false ∧
    WellFormed (.sofShortNtf 0 (List.replicate 256 0) 0) = false := by decide +kernel

theorem extRegion_replicate {n : Nat} (h : 65535 < n) : extRegion (List.replicate n 0) = false :=
  decide_eq_false (by rw [List.length_replicate]; exact Nat.not_le.2 h)

theorem replicate_length_le {n m : Nat} {b : Byte} (h : n ≤ m) : (List.replicate n b).length ≤ m :=
  (List.length_replicate (n := n) (a := b)).symm ▸ h

theorem test_ext_region_65536_ill_formed :
    WellFormed (.sofExtCmd 0 (List.replicate 65536 0) 0) = false ∧
    WellFormed (.sofExtRsp 0 (List.replicate 65536 0) 0) = false ∧
    WellFormed (.sofExtNtf 0 (List.replicate 65536 0) 0) = false := by
  refine ⟨?_, ?_, ?_⟩ <;> exact extRegion_replicate (by decide)

theorem test_noise_control_value_ill_formed :
    WellFormed (.ctlUnrecognised 0x02) = false ∧ WellFormed (.ctlUnrecognised 0x04) = false ∧
    WellFormed (.ctlUnrecognised 0x06) = false := by decide

theorem test_bad_type_ill_formed :
    WellFormed (.mtUnrecognised 0x03 0 0xA2) = false ∧
    WellFormed (.mtUnrecognised 0x02 0 0xA0) = false := by decide

theorem test_len_dec_too_short_ill_formed :
    WellFormed (.lenDec []) = false ∧ WellFormed (.lenDec [0x82]) = false ∧
    WellFormed (.lenDec [0x82, 0x01]) = false := by decide

theorem test_ack_of_ill_formed_frame :
    WellFormed (.ackOf { frameA with control := 0x03 }) = false ∧
    WellFormed (.ackOf { frameA with messageType := 0xA2 }) = false ∧
    WellFormed (.ackOf { frameA with length := 2 }) = false ∧
    WellFormed (.ackOf { frameA with messageId := none }) = false ∧
    WellFormed (.ackOf { frameA with control := 0x06 }) = false ∧
    WellFormed (.ackOf frameA) = true := by decide

/-! ### Decoding of words written out from R81 to R87, R92, R93 -/

theorem test_decode_sof_short :
    decode .seek [0x02, 0x00, 0xA0, 0x01, 0xF0, 0x75, 0x56] =
      .ok (.sofShortCmd 0x00 [0xF0] 0x5675) [] ∧
    decode .seek [0x02, 0x07, 0xA1, 0x02, 0xF0, 0x03, 0x74, 0x51] =
      .ok (.sofShortRsp 0x07 [0xF0, 0x03] 0x5174) [] ∧
    decode .seek [0x02, 0x21, 0xBB, 0x03, 0x40, 0xDE, 0xAD, 0x73, 0xAB] =
      .ok (.sofShortNtf 0x21 [0x40, 0xDE, 0xAD] 0xAB73) [] := by decide +kernel

theorem test_decode_sof_ext :
    decode .seek [0x02, 0x00, 0xA0, 0x82, 0x00, 0x01, 0xF0, 0x75, 0xD4] =
      .ok (.sofExtCmd 0x00 [0xF0] 0xD475) [] ∧
    decode .seek [0x02, 0x09, 0xA1, 0x82, 0x00, 0x02, 0xF1, 0x82, 0x34, 0x12, 0x77] =
      .ok (.sofExtRsp 0x09 [0xF1, 0x82] 0x1234) [0x77] ∧
    decode .seek [0x02, 0x0A, 0xBB, 0x82, 0x00, 0x00, 0x34, 0x12] =
      .ok (.sofExtNtf 0x0A [] 0x1234) [] := by decide +kernel

theorem test_decode_pairs :
    decode .seek [0x04, 0x01, 0xA0, 0x34, 0x12] = .ok (.eotCmd 0x01 0x1234) [] ∧
    decode .seek [0x04, 0x02, 0xA1, 0x34, 0x12] = .ok (.eotRsp 0x02 0x1234) [] ∧
    decode .seek [0x04, 0x10, 0xBB, 0x9E, 0x47] = .ok (.eotNtf 0x10 0x479E) [] ∧
    decode .seek [0x06, 0x00, 0xA0, 0x85, 0x57] = .ok (.ackCmd 0x00 0x5785) [] ∧
    decode .seek [0x06, 0x07, 0xA1, 0x84, 0x50] = .ok (.ackRsp 0x07 0x5084) [] ∧
    decode .seek [0x06, 0x10, 0xBB, 0x9E, 0x47] = .ok (.ackNtf 0x10 0x479E) [] := by decide +kernel

theorem test_decode_unrecognised :
    decode .seek [0x13, 0x02] = .ok (.ctlUnrecognised 0x13) [0x02] ∧
    decode .seek [0x02, 0x05, 0xA2, 0x01] = .ok (.mtUnrecognised 0x02 0x05 0xA2) [0x01] := by
  decide +kernel

theorem test_decode_code_values :
    decode .seek [0x02] = .ok .ctlSof [] ∧ decode .seek [0x04] = .ok .ctlEot [] ∧
    decode .seek [0x06] = .ok .ctlAck [] ∧ decode .hdrType [0xA0] = .ok .mtCommand [] ∧
    decode .hdrType [0xA1] = .ok .mtResponse [] ∧ decode .hdrType [0xBB] = .ok .mtNotification [] ∧
    decode .len0 [0x82] = .ok .lenEsc [] := by decide

theorem test_decode_bytes :
    decode .hdrSeq [0x82] = .ok (.rxHdrSeq 0x82) [] ∧ decode .hdrType [0xA2] = .ok (.rxHdrType 0xA2) [] ∧
    decode .len0 [0x81] = .ok (.rxLen0 0x81) [] ∧ decode .lenHi [0x82] = .ok (.rxLenHi 0x82) [] ∧
    decode .lenLo [0x82] = .ok (.rxLenLo 0x82) [] ∧ decode .body [0x02] = .ok (.rxBody 0x02) [] ∧
    decode .ckLo [0x02] = .ok (.rxCkLo 0x02) [] ∧ decode .ckHi [0x02] = .ok (.rxCkHi 0x02) [] := by
  decide

theorem test_decode_rejects :
    decode .seek [] = .reject .empty ∧ decode .closed [0x02] = .reject .notReading ∧
    decode .fault [0x02] = .reject .notReading ∧
    decodeFrame [0x02, 0x00, 0xA0, 0x01, 0xF0, 0x75] = .reject .incomplete := by decide

/-- The opcode table's numbering: rows of 40, 24, 16 and 8 bits. -/
theorem test_decode_table_words :
    decodeTableWord 40 0x0407A18450 = some (.eotRsp 0x07 0x5084) ∧
    decodeTableWord 24 0x0205A2 = some (.mtUnrecognised 0x02 0x05 0xA2) ∧
    decodeTableWord 16 0x5725 = some .ckSeed ∧ decodeTableWord 8 0x82 = some .lenEsc ∧
    decodeTableWord 8 0xA0 = some .mtCommand ∧ decodeTableWord 8 0x13 = some (.ctlUnrecognised 0x13) := by
  decide +kernel

/-! ### The rows of the wire -/

/-- V-RX-1 and V-RX-10. -/
theorem test_sof_short_cmd :
    seen (exec (.sofShortCmd 0x00 [0xF0] 0x5675) boundary) = some (.seek, .emit, [.frameEntry frameA]) ∧
    seen (exec (.sofShortCmd 0x00 [0xF0] 0x5775) boundary) = some (.seek, .badCksum, []) := by
  decide +kernel

/-- V-RX-3. -/
theorem test_sof_short_rsp :
    seen (exec (.sofShortRsp 0x07 [0xF0, 0x03] 0x5174) boundary) =
      some (.seek, .emit, [.frameEntry ⟨0x02, 0x07, 0xA1, 2, some 0xF0, [0x03], 0x5174⟩]) := by
  decide +kernel

/-- V-RX-3. -/
theorem test_sof_short_ntf :
    seen (exec (.sofShortNtf 0x21 [0x40, 0xDE, 0xAD] 0xAB73) boundary) =
      some (.seek, .emit, [.frameEntry ⟨0x02, 0x21, 0xBB, 3, some 0x40, [0xDE, 0xAD], 0xAB73⟩]) := by
  decide +kernel

/-- V-RX-11 and V-RX-13. -/
theorem test_sof_ext_cmd :
    seen (exec (.sofExtCmd 0x00 [0xF0] 0xD475) boundary) =
      some (.seek, .emit, [.frameEntry ⟨0x02, 0x00, 0xA0, 1, some 0xF0, [], 0xD475⟩]) ∧
    seen (exec (.sofExtCmd 0x00 [] 0xD585) boundary) = some (.seek, .zeroLen, []) := by
  decide +kernel

/-- R82, R110: body 07 A1 82 00 01 F0, checksum 5725 ^ 07A1 ^ 8200 ^ 01F0 = D374. -/
theorem test_sof_ext_rsp :
    seen (exec (.sofExtRsp 0x07 [0xF0] 0xD374) boundary) =
      some (.seek, .emit, [.frameEntry ⟨0x02, 0x07, 0xA1, 1, some 0xF0, [], 0xD374⟩]) := by
  decide +kernel

/-- R82, R110: body 10 BB 82 00 02 40 06, checksum 5725 ^ 10BB ^ 8200 ^ 0240 ^ 0600 = C1DE. -/
theorem test_sof_ext_ntf :
    seen (exec (.sofExtNtf 0x10 [0x40, 0x06] 0xC1DE) boundary) =
      some (.seek, .emit, [.frameEntry ⟨0x02, 0x10, 0xBB, 2, some 0x40, [0x06], 0xC1DE⟩]) := by
  decide +kernel

/-- V-CK-16 to V-CK-18 and V-RX-5. -/
theorem test_eot :
    seen (exec (.eotCmd 0x00 0x5785) boundary) =
      some (.seek, .emit, [.frameEntry ⟨0x04, 0x00, 0xA0, 0, none, [], 0x5785⟩]) ∧
    seen (exec (.eotRsp 0x07 0x5084) boundary) =
      some (.seek, .emit, [.frameEntry ⟨0x04, 0x07, 0xA1, 0, none, [], 0x5084⟩]) ∧
    seen (exec (.eotNtf 0x10 0x479E) boundary) =
      some (.seek, .emit, [.frameEntry ⟨0x04, 0x10, 0xBB, 0, none, [], 0x479E⟩]) := by decide +kernel

/-- V-CK-16 to V-CK-18 and V-RX-4. -/
theorem test_ack :
    seen (exec (.ackCmd 0x00 0x5785) boundary) =
      some (.seek, .emit, [.frameEntry ⟨0x06, 0x00, 0xA0, 0, none, [], 0x5785⟩]) ∧
    seen (exec (.ackRsp 0x07 0x5184) boundary) = some (.seek, .badCksum, []) ∧
    seen (exec (.ackNtf 0x10 0x479E) boundary) =
      some (.seek, .emit, [.frameEntry ⟨0x06, 0x10, 0xBB, 0, none, [], 0x479E⟩]) := by decide +kernel

/-- V-RX-7, V-RX-6: a byte is skipped, a bad type ends the candidate at its third byte. -/
theorem test_unrecognised :
    seen (exec (.ctlUnrecognised 0x03) boundary) = some (.seek, .none, []) ∧
    seen (exec (.mtUnrecognised 0x02 0x05 0x02) boundary) = some (.seek, .badMtype, []) := by decide

/-- R85, R153. -/
theorem test_control_codes :
    registers (exec .ctlSof boundary) = some ⟨.hdrSeq, 0x02, 0, 0, 0, 0, 0x5725, false⟩ ∧
    registers (exec .ctlEot boundary) = some ⟨.hdrSeq, 0x04, 0, 0, 0, 0, 0x5725, false⟩ ∧
    registers (exec .ctlAck boundary) = some ⟨.hdrSeq, 0x06, 0, 0, 0, 0, 0x5725, false⟩ := by decide

/-- R86, R155: from the trace of V-RX-1 and the checksums V-CK-17 and V-CK-18. -/
theorem test_type_codes :
    registers (exec .mtCommand { inside .hdrType 0x02 with rAcc := 0x5725, rPar := true }) =
      some ⟨.len0, 0x02, 0, 0xA0, 0, 0, 0x5785, false⟩ ∧
    registers (exec .mtResponse { inside .hdrType 0x06 with rAcc := 0x5025, rPar := true }) =
      some ⟨.ckLo, 0x06, 0, 0xA1, 0, 0, 0x5084, false⟩ ∧
    registers (exec .mtNotification { inside .hdrType 0x04 with rAcc := 0x4725, rPar := true }) =
      some ⟨.ckLo, 0x04, 0, 0xBB, 0, 0, 0x479E, false⟩ := by decide

/-- R87, R156: 5785 ^ 8200. -/
theorem test_length_escape :
    registers (exec .lenEsc { inside .len0 0x02 with rAcc := 0x5785 }) =
      some ⟨.lenHi, 0x02, 0, 0, 0, 0, 0xD585, true⟩ := by decide

/-! ### Checksum and length -/

theorem test_ck_seed : given (exec .ckSeed State.reset) = some (.value 0x5725) := by decide

/-- V-CK-15, V-CK-14. -/
theorem test_cksum :
    given (exec (.cksum [0xAB, 0xCD, 0xEF, 0x01, 0x23]) State.reset) = some (.value 0x30E9) ∧
    given (exec (.cksum [0x34, 0x12, 0x78, 0x56]) State.reset) = some (.value 0x1B61) := by decide

/-- V-CK-4, V-CK-19. -/
theorem test_cksum_bytes :
    given (exec (.cksumBytes [0x57]) State.reset) = some (.bytes [0x25, 0x00]) ∧
    given (exec (.cksumBytes [0x00, 0xA0, 0x01, 0xF0]) State.reset) = some (.bytes [0x75, 0x56]) := by
  decide

/-- V-LEN-8, V-LEN-10, V-LEN-12. -/
theorem test_len_enc :
    given (exec (.lenEnc 255) State.reset) = some (.bytes [0xFF]) ∧
    given (exec (.lenEnc 300) State.reset) = some (.bytes [0x82, 0x01, 0x2C]) ∧
    given (exec (.lenEnc 65535) State.reset) = some (.bytes [0x82, 0xFF, 0xFF]) ∧
    given (exec (.lenEnc 65536) State.reset) = some (.error .lengthTooLarge) := by decide

/-- V-LEN-5, V-LEN-11. -/
theorem test_len_dec :
    given (exec (.lenDec [0x81, 0x05]) State.reset) = some (.length 129 1) ∧
    given (exec (.lenDec [0x82, 0x82, 0x00, 0x07]) State.reset) = some (.length 33280 3) := by decide

/-! ### Transmit -/

/-- R130 with the defaults of D5 and D6: 255 is returned and the counter wraps. -/
theorem test_next_seq :
    (nextOf (exec .nextSeq { State.reset with seqCtr := 255 })).map (fun t => (t.result, t.seqCtr)) =
      some (.byte 255, 0) := by decide

/-- V-TX-2 (its first call) and V-TX-4. -/
theorem test_enc_cmd :
    (nextOf (exec (.encCmd 0xF0 []) { State.reset with seqCtr := 254 })).map
        (fun t => (t.result, t.seqCtr)) =
      some (.bytes [0x02, 0xFE, 0xA0, 0x01, 0xF0, 0x75, 0xA8], 255) ∧
    given (exec (.encCmd 0xF2 [0x41]) State.reset) =
      some (.bytes [0x02, 0x00, 0xA0, 0x02, 0xF2, 0x41, 0x77, 0x14]) := by decide

/-- V-TX-19, V-TX-22. -/
theorem test_enc_ack :
    given (exec (.encAck [0x04, 0x10, 0xBB]) State.reset) =
      some (.bytes [0x06, 0x10, 0xBB, 0x9E, 0x47]) ∧
    given (exec (.encAck [0x02, 0x05]) State.reset) = some (.error .ackOutOfRange) := by decide

/-- V-TX-17, V-TX-18 through the pseudo-operations of R100. -/
theorem test_enc_ack_pair :
    given (exec (.encAckPair 0x00 0xA0) State.reset) = some (.bytes [0x06, 0x00, 0xA0, 0x85, 0x57]) ∧
    given (exec (.ackOf ⟨0x02, 0x07, 0xA1, 2, some 0xF0, [0x03], 0x5174⟩) State.reset) =
      some (.bytes [0x06, 0x07, 0xA1, 0x84, 0x50]) := by decide

/-! ### Reader: the trace of V-RX-1, byte by byte -/

theorem test_rx_seek :
    registers (exec (.rxSeek 0x02) { boundary with rAcc := 0x1234, rPar := true, rLen := 9 }) =
      some ⟨.hdrSeq, 0x02, 0, 0, 0, 0, 0x5725, false⟩ := by decide

theorem test_rx_hdr_seq :
    registers (exec (.rxHdrSeq 0x07) { inside .hdrSeq 0x02 with rAcc := 0x5725 }) =
      some ⟨.hdrType, 0x02, 0x07, 0, 0, 0, 0x5025, true⟩ := by decide

theorem test_rx_hdr_type :
    registers (exec (.rxHdrType 0xA0) { inside .hdrType 0x02 with rAcc := 0x5725, rPar := true }) =
      some ⟨.len0, 0x02, 0, 0xA0, 0, 0, 0x5785, false⟩ := by decide

theorem test_rx_len0 :
    registers (exec (.rxLen0 0x01) { inside .len0 0x02 with rAcc := 0x5785 }) =
      some ⟨.body, 0x02, 0, 0, 1, 0, 0x5685, true⟩ ∧
    registers (exec (.rxLen0 0x00) { inside .len0 0x02 with rAcc := 0x5785 }) =
      some ⟨.ckLo, 0x02, 0, 0, 0, 0, 0x5785, true⟩ := by decide

/-- Program P2, its length 012C. -/
theorem test_rx_len_hi :
    registers (exec (.rxLenHi 0x01) { inside .lenHi 0x02 with rAcc := 0xD485, rPar := true }) =
      some ⟨.lenLo, 0x02, 0, 0, 0x0100, 0, 0xD484, false⟩ := by decide

theorem test_rx_len_lo :
    registers (exec (.rxLenLo 0x2C) { inside .lenLo 0x02 with rLen := 0x0100, rAcc := 0xD484 }) =
      some ⟨.body, 0x02, 0, 0, 300, 0, 0xF884, true⟩ := by decide

theorem test_rx_body :
    registers (exec (.rxBody 0xF0) { inside .body 0x02 with rLen := 1, rAcc := 0x5685, rPar := true }) =
      some ⟨.ckLo, 0x02, 0, 0, 1, 1, 0x5675, false⟩ ∧
    (nextOf (exec (.rxBody 0xF0) { inside .body 0x02 with rLen := 1 })).map (fun t => bufRead t 0) =
      some 0xF0 := by decide

theorem test_rx_ck_lo :
    (nextOf (exec (.rxCkLo 0x75) { inside .ckLo 0x02 with rAcc := 0x5675 })).map
      (fun t => (t.rxState, t.rCklo, t.rAcc)) = some (.ckHi, 0x75, 0x5675) := by decide

/-- V-RX-1's last byte, and V-Q-1's byte 707. -/
theorem test_rx_ck_hi :
    seen (exec (.rxCkHi 0x56)
      { inside .ckHi 0x02 with
        rMtype := 0xA0, rLen := 1, rCnt := 1, rAcc := 0x5675, rCklo := 0x75, buf := [(0, 0xF0)] }) =
      some (.seek, .emit, [.frameEntry frameA]) ∧
    (nextOf (exec (.rxCkHi 0x47)
      (holding 100 { inside .ckHi 0x04 with rMtype := 0xBB, rAcc := 0x479E, rCklo := 0x9E }))).map
        (fun t => (t.rxState, t.rxEvent, t.faultOverflow, t.queue.length)) =
      some (.fault, .overflow, true, 100) := by decide +kernel

/-- V-RX-8, V-RX-17. -/
theorem test_rx_string :
    seen (exec (.rxString (bytesA ++ [0x06, 0x01, 0xA0, 0x01, 0xF0, 0x75, 0x57])) boundary) =
      some (.seek, .none, [.frameEntry frameA]) ∧
    seen (exec (.rxString bytesA) State.reset) = some (.closed, .none, []) := by decide +kernel

/-! ### Queue and lifecycle -/

/-- V-Q-3: the entries come out in order, and the third POP waits. -/
theorem test_pop :
    (nextOf (exec .pop { State.reset with queue := [.frameEntry frameA, .sentinel] })).map
        (fun t => (t.result, t.queue)) = some (.entries [.frameEntry frameA], [.sentinel]) ∧
    nextOf (exec .pop State.reset) = some State.reset := by decide

/-- V-Q-6, V-Q-7. -/
theorem test_open :
    nextOf (exec .openReader State.reset) = some boundary ∧
    nextOf (exec .openReader (inside .body 0x02)) = some (inside .body 0x02) := by decide

/-- V-Q-4. -/
theorem test_close :
    nextOf (exec .closeReader (inside .body 0x02)) =
      some { inside .body 0x02 with openFlag := false } := by decide

/-- V-Q-3, V-Q-5. -/
theorem test_sentinel :
    seen (exec .sentinel { boundary with openFlag := false, queue := [.frameEntry frameA] }) =
      some (.closed, .sentinel, [.frameEntry frameA, .sentinel]) ∧
    (seen (exec .sentinel (holding 100 { boundary with openFlag := false }))).map
      (fun x => (x.1, x.2.1, x.2.2.length)) = some (.fault, .overflow, 100) := by decide +kernel

/-- V-Q-8. -/
theorem test_reset :
    (nextOf (exec .reset (holding 3 { inside .body 0x02 with seqCtr := 7 }))).map
      (fun t => (t.rxState, t.openFlag, t.faultOverflow, t.queue, t.seqCtr)) =
      some (.closed, false, false, [], 0) := by decide

/-- Program P3, its fifth line. -/
theorem test_drain :
    (nextOf (exec .drain { boundary with queue := [.frameEntry frameA, .sentinel] })).map
      (fun t => (t.result, t.queue)) =
      some (.entries [.frameEntry frameA, .sentinel], []) := by decide

/-- The step takes the row's bytes from the front of the stream and leaves the others there. -/
theorem test_step_runs_frame :
    (nextOf (step { boundary with inbox := [.bytes (bytesA ++ [0x04])] })).map
      (fun t => (t.queue, t.inbox)) = some ([.frameEntry frameA], [.bytes [0x04]]) := by decide +kernel

/-- The host's placement runs a row as the first instruction after reset. -/
theorem test_step_runs_table_word :
    seen (step (State.reset.withFetchWord 40 0x0407A18450)) =
      some (.seek, .emit, [.frameEntry ⟨0x04, 0x07, 0xA1, 0, none, [], 0x5084⟩]) := by decide +kernel

/-! ### Witnesses: for each statement with hypotheses, inputs that meet them all together

Where a statement has several clauses, each gets a witness at a boundary of its range. -/

theorem witness_WireInstructionsDecodeBack :
    WellFormed (.sofShortCmd 0x00 [0xF0] 0x5675) = true ∧
    encode (.sofShortCmd 0x00 [0xF0] 0x5675) = some (.seek, bytesA) := by decide

theorem witness_CandidatesDecodeBeforeAnyBytes :
    (WellFormed (.mtUnrecognised 0x02 0x05 0xA2) = true ∧
      encode (.mtUnrecognised 0x02 0x05 0xA2) = some (.seek, [0x02, 0x05, 0xA2]) ∧
      3 ≤ [0x02#8, 0x05, 0xA2].length) ∧
    WellFormed (.ctlUnrecognised 0x03) = true ∧
    encode (.ctlUnrecognised 0x03) = some (.seek, [0x03]) ∧
    ∃ b, Instr.ctlUnrecognised 0x03 = .ctlUnrecognised b :=
  ⟨by decide, by decide, by decide, _, rfl⟩

theorem witness_DecodedCandidatesAreTheirBytes :
    decode .seek (bytesA ++ [0x04]) = .ok (.sofShortCmd 0x00 [0xF0] 0x5675) [0x04] ∧
    decode .seek [0x02, 0x05] = .ok .ctlSof [0x05] ∧
    decode .len0 [0x82, 0x05] = .ok .lenEsc [0x05] := by decide +kernel

theorem witness_ChecksumLaws :
    [0xAB#8, 0xCD].length = [0x12#8, 0x34].length ∧ ([] : List Byte).length % 2 = 0 ∧
    [0xAB#8].length % 2 = 1 := by decide

theorem witness_ChecksumDetectsOneChangedByte : (0x00 : Byte) ≠ 0x01 := by decide

theorem witness_LenEncForms :
    0 ≤ 255 ∧ 255 ≤ 255 ∧ (255 < 256 ∧ 256 ≤ 65535) ∧ (255 < 65535 ∧ 65535 ≤ 65535) ∧
    65535 < 65536 := by decide

theorem witness_LenDecReadsTheField : (0x81 : Byte) ≠ 0x82 ∧ (0x83 : Byte) ≠ 0x82 := by decide

theorem witness_LengthFieldRoundTrip :
    (129 ≤ 65535 ∧ 129 ≠ 130) ∧ (131 ≤ 65535 ∧ 131 ≠ 130) ∧ (65535 ≤ 65535 ∧ 65535 ≠ 130) := by decide

theorem witness_EncCmdReturnsTheFrame :
    ([] : List Byte).length ≤ 65534 ∧ (List.replicate 65534 (0xAA : Byte)).length ≤ 65534 :=
  ⟨by decide, replicate_length_le (Nat.le_refl 65534)⟩

theorem witness_EncoderRefusalsGoToTheCaller :
    65534 < (List.replicate 65535 (0xAA : Byte)).length ∧ ([] : List Byte).length < 3 ∧
    [0x02#8, 0x05].length < 3 :=
  ⟨by rw [List.length_replicate]; decide, by decide, by decide⟩

theorem witness_EncodedFrameSizes :
    (List.replicate 254 (0x55 : Byte)).length ≤ 65534 ∧
    (List.replicate 255 (0x55 : Byte)).length ≤ 65534 ∧ 3 ≤ [0x04#8, 0x10, 0xBB].length := by
  decide +kernel

theorem witness_SeekTakesAControlByteOrSkips :
    boundary.rxState = .seek ∧ boundary.openFlag = true := by decide

theorem witness_HdrSeqTakesAnySequenceId : (inside .hdrSeq 0x02).rxState = .hdrSeq := rfl

theorem witness_HdrTypeTestsTheType : (inside .hdrType 0x06).rxState = .hdrType := rfl

theorem witness_Len0ReadsTheLengthOrTheEscape : (inside .len0 0x02).rxState = .len0 := rfl

theorem witness_CodeValuesAreConsumedInTheirFields :
    (boundary.rxState = .seek ∧ boundary.openFlag = true) ∧
    (inside .hdrType 0x02).rxState = .hdrType ∧ (inside .len0 0x02).rxState = .len0 := by decide

theorem witness_LenHiTakesTheHighByte : (inside .lenHi 0x02).rxState = .lenHi := rfl

theorem witness_LenLoTakesTheLowByte : (inside .lenLo 0x02).rxState = .lenLo := rfl

theorem witness_BodyStoresTheByte :
    ({ inside .body 0x02 with rLen := 65535, rCnt := 65534 }).rxState = .body ∧
    ({ inside .body 0x02 with rLen := 65535, rCnt := 65534 }).rCnt.toNat < 65535 := by decide

theorem witness_BodyOutsideTheBufferFaults :
    ({ inside .body 0x02 with rCnt := 65535 }).rxState = .body ∧
    ({ inside .body 0x02 with rCnt := 65535 }).rCnt.toNat = 65535 := by decide

theorem witness_CkLoKeepsTheByte : (inside .ckLo 0x04).rxState = .ckLo := rfl

theorem witness_ChecksumMismatchDiscards :
    ({ inside .ckHi 0x04 with rAcc := 0x479E, rCklo := 0x9F }).rxState = .ckHi ∧
    word 0x47 0x9F ≠ 0x479E := by decide

theorem witness_ChecksumMatchEmitsOrOverflows :
    (holding 99 { inside .ckHi 0x04 with rAcc := 0x479E, rCklo := 0x9E }).rxState = .ckHi ∧
    (holding 100 { inside .ckHi 0x04 with rAcc := 0x479E, rCklo := 0x9E }).rxState = .ckHi ∧
    word 0x47 0x9E = 0x479E ∧ ¬((0x04 : Byte) = 0x02 ∧ (0 : Word) = 0) ∧
    ¬((0x02 : Byte) = 0x02 ∧ (1 : Word) = 0) := by decide

theorem witness_ZeroLengthIsDropped :
    ({ inside .ckHi 0x02 with rAcc := 0x5785, rCklo := 0x85 }).rxState = .ckHi ∧
    word 0x57 0x85 = 0x5785 ∧ (inside .ckHi 0x02).rCtl = 0x02 ∧ (inside .ckHi 0x02).rLen = 0 := by
  decide

theorem witness_NoiseByteIsSkipped :
    (0x03 : Byte) ≠ 0x02 ∧ (0x03 : Byte) ≠ 0x04 ∧ (0x03 : Byte) ≠ 0x06 ∧
    boundary.rxState = .seek ∧ boundary.openFlag = true := by decide

theorem witness_UnrecognisedTypeIsAbandoned :
    ((0x06 : Byte) = 0x02 ∨ (0x06 : Byte) = 0x04 ∨ (0x06 : Byte) = 0x06) ∧ (0x9F : Byte) ≠ 0xA0 ∧
    (0x9F : Byte) ≠ 0xA1 ∧ (0x9F : Byte) ≠ 0xBB ∧ boundary.rxState = .seek ∧
    boundary.openFlag = true := by decide

theorem witness_StartOfFrameRowsAreConsumed :
    boundary.rxState = .seek ∧ boundary.openFlag = true ∧
    shortRegion [] = true ∧ shortRegion (List.replicate 129 0) = true ∧
    shortRegion (List.replicate 255 0) = true ∧ extRegion [] = true ∧
    extRegion (List.replicate 65535 0) = true :=
  ⟨by decide, by decide, by decide, by decide +kernel, by decide +kernel, by decide,
    decide_eq_true (replicate_length_le (Nat.le_refl 65535))⟩

theorem witness_PairRowsAreConsumed : boundary.rxState = .seek ∧ boundary.openFlag = true := by decide

theorem witness_PushAppendsOrOverflows :
    (holding 100 boundary).queue.length = 100 ∧ (holding 99 boundary).queue.length ≠ 100 := by decide

theorem witness_PopReturnsTheOldestEntry :
    (holding 1 State.reset).queue = .sentinel :: [] ∧ State.reset.queue = [] := by decide

theorem witness_OpenStartsTheReader :
    State.reset.rxState = .closed ∧ boundary.rxState ≠ .closed := by decide

theorem witness_SentinelClosesTheReader :
    ({ boundary with openFlag := false }).rxState = .seek ∧
    ({ boundary with openFlag := false }).openFlag = false := by decide

theorem witness_EventsNotEnabledDoNotHappen :
    enabled .pop State.reset = false ∧ enabled (.rxString [0x02]) State.reset = false := by decide

theorem witness_OnlyResetLeavesTheFault :
    ∃ t, exec .closeReader { boundary with rxState := .fault, faultOverflow := true } = .next t ∧
      Instr.closeReader ≠ .reset :=
  ⟨_, rfl, by decide⟩

theorem witness_QueueIsFirstInFirstOut :
    ∃ t, exec .pop (holding 2 boundary) = .next t ∧ Instr.pop ≠ .reset :=
  ⟨_, rfl, by decide⟩

theorem witness_ReceiveSideIgnoresTheCounter :
    ∃ t, exec (.rxSeek 0x02) boundary = .next t ∧ Instr.rxSeek 0x02 ≠ .nextSeq ∧
      (∀ messageId payload, Instr.rxSeek 0x02 ≠ .encCmd messageId payload) ∧
      Instr.rxSeek 0x02 ≠ .reset :=
  ⟨_, rfl, by decide, fun _ _ h => Instr.noConfusion h, by decide⟩

theorem witness_OpenFlagIsNotLookedAtInsideAFrame :
    inFrame (inside .hdrSeq 0x02) = true ∧ ∃ t, exec (.rxString [0x07]) (inside .hdrSeq 0x02) = .next t :=
  ⟨rfl, _, rfl⟩

theorem witness_NoiseStringsLeaveNoTrace :
    [0x03#8, 0xFF] ≠ [] ∧ boundary.rxState = .seek ∧ boundary.openFlag = true ∧
    ∀ b, b ∈ [0x03#8, 0xFF] → b ≠ 0x02 ∧ b ≠ 0x04 ∧ b ≠ 0x06 := by decide

theorem witness_ReaderIsTheFunctionalReading :
    (holding 100 boundary).rxState = .seek ∧ (holding 100 boundary).openFlag = true ∧
    (holding 100 boundary).faultOverflow = false ∧ (holding 100 boundary).queue.length ≤ 100 := by
  decide

theorem witness_EncodedCommandIsReceived :
    [0x41#8].length ≤ 65534 ∧ [0x41#8].length ≠ 129 ∧
    exec (.encCmd 0xF2 [0x41]) State.reset =
      .next { State.reset with
        seqCtr := State.reset.seqCtr + 1
        result := .bytes [0x02, 0x00, 0xA0, 0x02, 0xF2, 0x41, 0x77, 0x14] } ∧
    (holding 99 boundary).rxState = .seek ∧ (holding 99 boundary).openFlag = true ∧
    (holding 99 boundary).queue.length < 100 :=
  ⟨by decide, by decide, rfl, by decide, by decide, by decide⟩

theorem witness_EncodedAckIsReceived :
    ((0xA0 : Byte) = 0xA0 ∨ (0xA0 : Byte) = 0xA1 ∨ (0xA0 : Byte) = 0xBB) ∧
    exec (.encAck (0x02 :: 0x00 :: 0xA0 :: [0x01])) State.reset =
      .next { State.reset with result := .bytes [0x06, 0x00, 0xA0, 0x85, 0x57] } ∧
    (holding 99 boundary).rxState = .seek ∧ (holding 99 boundary).openFlag = true ∧
    (holding 99 boundary).queue.length < 100 :=
  ⟨by decide, rfl, by decide, by decide, by decide⟩

theorem witness_StepRunsTheDecodedInstruction :
    (({ boundary with inbox := [.bytes (bytesA ++ [0x04])] }).inbox = .bytes (bytesA ++ [0x04]) :: [] ∧
      rxEnabled { boundary with inbox := [.bytes (bytesA ++ [0x04])] } = true ∧
      decode .seek (bytesA ++ [0x04]) = .ok (.sofShortCmd 0x00 [0xF0] 0x5675) [0x04]) ∧
    ({ State.reset with inbox := [.call .owner .openReader] }).inbox = .call .owner .openReader :: [] ∧
    mayPerform .owner .openReader = true ∧ enabled .openReader State.reset = true := by decide +kernel

/-- A closed reader with inputs pending. -/
def closedWith (inbox : List Input) : State := { State.reset with inbox := inbox }

/-- The reader at a boundary with inputs pending. -/
def boundaryWith (inbox : List Input) : State := { boundary with inbox := inbox }

/-- A call behind a call, a call behind bytes, bytes behind a call, a second byte string that waits behind
its first while a call between them happens, and a call of the wrong party. -/
theorem witness_WaitingAgentsDoNotBlockOthers :
    (Agent.consumer ≠ .owner ∧ mayPerform .consumer .pop = true ∧
      enabled .pop (closedWith [.call .consumer .pop, .call .owner .openReader]) = false ∧
      mayPerform .owner .openReader = true ∧
      enabled .openReader (closedWith [.call .consumer .pop, .call .owner .openReader]) = true) ∧
    (rxEnabled (closedWith [.bytes [0x02], .call .owner .openReader]) = false ∧ Agent.owner ≠ .link ∧
      enabled .openReader (closedWith [.bytes [0x02], .call .owner .openReader]) = true) ∧
    (Agent.consumer ≠ .link ∧ enabled .pop (boundaryWith [.call .consumer .pop, .bytes bytesA]) = false ∧
      rxEnabled (boundaryWith [.call .consumer .pop, .bytes bytesA]) = true ∧
      decode .seek bytesA = .ok (.sofShortCmd 0x00 [0xF0] 0x5675) []) ∧
    (waits (closedWith [.bytes [0x02], .call .owner .openReader, .bytes [0x05]]) (.bytes [0x02]) = true ∧
      (Input.bytes [0x05]).agent = (Input.bytes [0x02]).agent ∧
      choose (closedWith [.bytes [0x02], .call .owner .openReader, .bytes [0x05]]) []
        [.bytes [0x02], .call .owner .openReader, .bytes [0x05]] =
          .run .openReader [.bytes [0x02], .bytes [0x05]]) ∧
    mayPerform .consumer .openReader = false := by decide +kernel

/-- The last but one clause's state is quiescent by R243 though an `ENC_CMD` is pending. -/
theorem witness_IdleStepPerformsOnlyTheSentinel :
    (choose State.reset [] State.reset.inbox = .idle ∧
      ¬(State.reset.rxState = .seek ∧ State.reset.openFlag = false)) ∧
    (Quiescent (closedWith [.call .producer (.encCmd 0xF0 [])]) ∧
      choose (closedWith [.call .producer (.encCmd 0xF0 [])]) [] [.call .producer (.encCmd 0xF0 [])] =
        .run (.encCmd 0xF0 []) []) ∧
    Quiescent boundary ∧
    (choose { boundary with openFlag := false } [] [] = .idle ∧
      ({ boundary with openFlag := false }).rxState = .seek ∧
      ({ boundary with openFlag := false }).openFlag = false) ∧
    (closedWith [.bytes [0x02]]).inbox = [.bytes [0x02]] ∧
    rxEnabled (closedWith [.bytes [0x02]]) = false ∧
    ((closedWith [.bytes [0x02]]).rxState = .seek → (closedWith [.bytes [0x02]]).openFlag = true) :=
  ⟨⟨rfl, by decide⟩, ⟨⟨rfl, by decide⟩, rfl⟩, ⟨rfl, by decide⟩, ⟨rfl, rfl, rfl⟩, rfl, rfl, by decide⟩

/-- A step of each kind: one that leaves the counter, an `ENC_CMD`, a `RESET`; and a call of NEXT_SEQ. -/
theorem witness_OnlyEncCmdAndResetMoveTheCounter :
    (∃ t, step (closedWith [.call .owner .openReader]) = .next t) ∧
    (∃ t, step (closedWith [.call .producer (.encCmd 0xF0 [])]) = .next t ∧ t.seqCtr = 1) ∧
    (∃ t, step (closedWith [.call .owner .reset]) = .next t) ∧
    (closedWith [.call .producer .nextSeq]).inbox = .call .producer .nextSeq :: [] :=
  ⟨⟨_, rfl⟩, ⟨_, rfl, rfl⟩, ⟨_, rfl⟩, rfl⟩

/-- V-Q-4's state after the bytes 02 00 A0 01, with the next byte pending. -/
def midFrame : State :=
  { inside .body 0x02 with
    rMtype := 0xA0, rLen := 1, rAcc := 0x5685, rPar := true, inbox := [.bytes [0xF0]] }

theorem midFrame_inv : Inv midFrame where
  fault_iff := by decide
  queue_bound := by decide
  body_range := by decide
  length_states := by decide
  control_known := by decide
  type_known := by decide
  checksum_so_far := fun _ => ⟨[0x00, 0xA0, 0x01], ⟨[0x01], rfl, rfl⟩, by decide, by decide⟩
  closed_flag := by decide
  no_length := by decide
  count_start := by decide
  length_start := by decide
  count_end := by decide
  written := fun _ k hk => absurd hk (Nat.not_lt_zero k)
  buf_wf := rfl
  queue_valid := fun _ h => absurd h List.not_mem_nil

theorem witness_EveryStepKeepsTheInvariants : Inv midFrame ∧ ∃ t, step midFrame = .next t :=
  ⟨midFrame_inv, _, rfl⟩

theorem witness_NoStepFaultsUnderTheInvariants : Inv midFrame := midFrame_inv

end Sys2Proof.Machine.Tests
end

section
/-! Proofs for the family `30_encoding.md`: a noise byte at a frame boundary (R92). -/

namespace Sys2Proof.Machine

/-- A byte is noise when it is none of the three control values (R85, R92). -/
theorem isControl_eq_false_iff (b : Byte) :
    isControl b = false ↔ b ≠ 0x02#8 ∧ b ≠ 0x04#8 ∧ b ≠ 0x06#8 := by
  rw [← Bool.not_eq_true, isControl_iff, not_or, not_or]

/-- `EV_NONE` is presented on the event port but not recorded. -/
theorem present_none (s : State) : present .none s = { s with rxEvent := .none } := rfl

/-- At a frame boundary a noise byte is consumed and leaves no trace but `EV_NONE` (R92, R153). -/
theorem rxByte_noise {s : State} (hs : atBoundary s = true) {b : Byte} (hb : isControl b = false) :
    rxByte b s = .next { s with rxEvent := .none } := by
  obtain ⟨hseek, hopen⟩ := (atBoundary_iff s).1 hs
  rw [rxByte_seek hseek hopen, hb, if_neg Bool.false_ne_true, present_none]

/-- A boundary is a state in which the reader takes bytes (R152). -/
theorem rxEnabled_of_atBoundary {s : State} (hs : atBoundary s = true) : rxEnabled s = true := by
  obtain ⟨hseek, hopen⟩ := (atBoundary_iff s).1 hs
  simp [rxEnabled, hseek, hopen]

theorem exec_ctlUnrecognised (b : Byte) (s : State) :
    exec (.ctlUnrecognised b) s = candidate [b] s := rfl

/-- Settles O34: the row runs at a boundary, its one byte is noise, and no byte is left to deliver. -/
theorem noiseByteIsSkipped : Obligations.NoiseByteIsSkipped := by
  intro b s hSof hEot hAck hseek hopen
  have hs : atBoundary s = true := (atBoundary_iff s).2 ⟨hseek, hopen⟩
  have hb : isControl b = false := (isControl_eq_false_iff b).2 ⟨hSof, hEot, hAck⟩
  rw [exec_ctlUnrecognised, candidate_runs hs,
    deliver_cons (rxEnabled_of_atBoundary hs) (rxByte_noise hs hb), deliver_nil]

end Sys2Proof.Machine
end

section
/-! Proofs for the family `40_checksum.md`: the checksum as the loop of R110 by index, and its wire form (R112). -/

namespace Sys2Proof.Machine

/-! ### The loop of R110 with the accumulator as an argument -/

/-- The body of R110's loop at index `k`: the word of bytes `2k` and `2k+1` is folded in. -/
def xorWordAt (s : List Byte) (acc : Word) (k : Nat) : Word :=
  acc ^^^ word (s.getD (2 * k) 0) (s.getD (2 * k + 1) 0)

/-- The loop of `cksumByIndex` from any accumulator, so that an induction over the string can move it. -/
def foldByIndex (acc : Word) (s : List Byte) : Word :=
  let folded := (List.range (s.length / 2)).foldl (xorWordAt s) acc
  if s.length % 2 = 1 then folded ^^^ word (s.getD (s.length - 1) 0) 0x00 else folded

theorem cksumByIndex_eq (s : List Byte) : cksumByIndex s = foldByIndex params.ckSeed s := rfl

theorem xorWordAt_pair_zero (hi lo : Byte) (rest : List Byte) (acc : Word) :
    xorWordAt (hi :: lo :: rest) acc 0 = acc ^^^ word hi lo := rfl

/-- Behind a leading word the loop reads the rest of the string one index lower. -/
theorem xorWordAt_pair_succ (hi lo : Byte) (rest : List Byte) (acc : Word) (k : Nat) :
    xorWordAt (hi :: lo :: rest) acc (k + 1) = xorWordAt rest acc k := rfl

/-- The whole words of a string that begins with one: that word first, then the words of the rest. -/
theorem foldl_xorWordAt_pair (acc : Word) (hi lo : Byte) (rest : List Byte) (n : Nat) :
    (List.range (n + 1)).foldl (xorWordAt (hi :: lo :: rest)) acc =
      (List.range n).foldl (xorWordAt rest) (acc ^^^ word hi lo) := by
  simp only [List.range_succ_eq_map, List.foldl_cons, List.foldl_map, xorWordAt_pair_zero,
    xorWordAt_pair_succ]

/-- The last byte of a string of odd length is not in its leading word. -/
theorem getD_last_pair (hi lo : Byte) {rest : List Byte} (hodd : rest.length % 2 = 1) :
    (hi :: lo :: rest).getD ((hi :: lo :: rest).length - 1) 0 = rest.getD (rest.length - 1) 0 := by
  have hlast : (hi :: lo :: rest).length - 1 = (rest.length - 1) + 2 := by
    simp only [List.length_cons]; omega
  rw [hlast]
  rfl

theorem foldByIndex_pair (acc : Word) (hi lo : Byte) (rest : List Byte) :
    foldByIndex acc (hi :: lo :: rest) = foldByIndex (acc ^^^ word hi lo) rest := by
  have hhalf : (hi :: lo :: rest).length / 2 = rest.length / 2 + 1 := by
    simp only [List.length_cons]; omega
  have hparity : (hi :: lo :: rest).length % 2 = rest.length % 2 := by
    simp only [List.length_cons]; omega
  simp only [foldByIndex, hhalf, hparity, foldl_xorWordAt_pair]
  by_cases hodd : rest.length % 2 = 1
  · rw [if_pos hodd, if_pos hodd, getD_last_pair hi lo hodd]
  · rw [if_neg hodd, if_neg hodd]

/-- The recursion by words and the loop by index fold the same values into the same accumulator. -/
theorem foldWords_eq_foldByIndex (acc : Word) (s : List Byte) :
    foldWords acc s = foldByIndex acc s := by
  induction acc, s using foldWords.induct with
  | case1 acc => rfl
  | case2 acc last => simp [foldByIndex]
  | case3 acc hi lo rest ih => rw [foldWords_pair, foldByIndex_pair, ih]

theorem cksum_eq_cksumByIndex (s : List Byte) : cksum s = cksumByIndex s :=
  (foldWords_eq_foldByIndex params.ckSeed s).trans (cksumByIndex_eq s).symm

/-! ### The instructions -/

theorem exec_cksum (bytes : List Byte) (s : State) :
    exec (.cksum bytes) s = .next { s with result := .value (cksum bytes) } := rfl

theorem exec_cksumBytes (bytes : List Byte) (s : State) :
    exec (.cksumBytes bytes) s = .next { s with result := .bytes (littleEndian (cksum bytes)) } := rfl

/-- Settles O5, by induction over the words of the string with the accumulator general. -/
theorem cksumIsTheSeededFold : Obligations.CksumIsTheSeededFold := by
  intro bytes s
  rw [exec_cksum, cksum_eq_cksumByIndex]

/-- Settles O7: the wire form of a word is its low byte, then its high byte; of the empty string it is the
seed's. -/
theorem cksumBytesAreLowByteFirst : Obligations.CksumBytesAreLowByteFirst := by
  constructor
  · intro bytes s
    rw [exec_cksumBytes, littleEndian_eq]
  · rfl

end Sys2Proof.Machine
end

section
/-! Proofs for the family `41_length.md`: `LEN_DEC` as its caller sees it (R121). -/

namespace Sys2Proof.Machine

theorem exec_lenDec (bytes : List Byte) (s : State) :
    exec (.lenDec bytes) s = .next { s with result := lengthResult (lenDec bytes) } := rfl

theorem lengthResult_some (n : Word) (taken : Nat) :
    lengthResult (some (n, taken)) = .length n taken := rfl

/-- Settles O12: the first byte is the escape, with the two bytes of the length behind it, or it is itself the
length. -/
theorem lenDecReadsTheField : Obligations.LenDecReadsTheField := by
  constructor
  · intro hi lo rest s
    have hfield : lenDec (0x82 :: hi :: lo :: rest) = some (word hi lo, 3) := lenDec_ext hi lo rest
    rw [exec_lenDec, hfield, lengthResult_some]
  · intro b rest s hb
    rw [exec_lenDec, lenDec_short hb, lengthResult_some]

end Sys2Proof.Machine
end

section
/-! Proofs for the family `42_tx_encode.md`: the two encoders inside their preconditions (R131, R133). -/

namespace Sys2Proof.Machine

theorem exec_encCmd (messageId : Byte) (payload : List Byte) (s : State) :
    exec (.encCmd messageId payload) s = execEncCmd messageId payload s := rfl

theorem exec_encAck (f : List Byte) (s : State) :
    exec (.encAck f) s = .next { s with result := ackResult f } := rfl

/-- Drawing a sequence id changes the counter and no other field (R130). -/
theorem advanceSeq_eq (s : State) : advanceSeq s = { s with seqCtr := s.seqCtr + 1 } := by
  rw [advanceSeq, drawSeq_snd]
  rfl

/-- What `ENC_CMD` leaves behind: the counter one further and the caller's result (R131). -/
theorem give_advanceSeq (r : Result) (s : State) :
    give r (advanceSeq s) = { s with seqCtr := s.seqCtr + 1, result := r } := by
  rw [advanceSeq_eq, give]

/-- The bytes of a command frame in R131's order, with the control and type values written out. -/
theorem frameBytes_commandBody (seq : Byte) (field : List Byte) (messageId : Byte)
    (payload : List Byte) :
    frameBytes 0x02#8 (commandBody seq field messageId payload) =
      [0x02] ++ ([seq] ++ [0xA0] ++ field ++ [messageId] ++ payload) ++
        cksumBytes ([seq] ++ [0xA0] ++ field ++ [messageId] ++ payload) := by
  rw [frameBytes, commandBody, params_mtCommand]
  rfl

/-- An input with a pair behind its first byte is long enough for `ENC_ACK`, which frames that pair alone:
neither the first byte nor what follows the pair reaches the result (R133). -/
theorem ackResult_pair (first second third : Byte) (rest : List Byte) :
    ackResult (first :: second :: third :: rest) = .bytes (frameBytes 0x06 [second, third]) := by
  rcases ackResult_cases (first :: second :: third :: rest) with ⟨_, hframe⟩ | ⟨hshort, _⟩
  · exact hframe
  · simp only [List.length_cons] at hshort
    omega

/-- Settles O16: a payload within the bound leaves only the framing case of `ENC_CMD`. -/
theorem encCmdReturnsTheFrame : Obligations.EncCmdReturnsTheFrame := by
  intro messageId payload s hlen
  rcases execEncCmd_cases messageId payload s with ⟨_, field, hfield, hexec⟩ | ⟨hlong, _⟩
  · refine ⟨field, hfield, ?_⟩
    rw [exec_encCmd, hexec, give_advanceSeq, frameBytes_commandBody]
  · omega

/-- Settles O19: the input is long enough, and the pair alone is framed. -/
theorem encAckEchoesThePair : Obligations.EncAckEchoesThePair := by
  intro first second third rest s
  rw [exec_encAck, ackResult_pair, frameBytes]

end Sys2Proof.Machine
end

section
/-! Proofs for the family `43_rx_reassembly.md`: one `RX_BYTE` event in each state from SEEK to CK_LO (R153,
R154, R156 to R160). -/

namespace Sys2Proof.Machine

/-! ### The rows of `RX_BYTE` -/

/-- The `RX_BYTE` row of the opcode table for a byte that comes in a reader state; none where the reader
consumes nothing (R150, R152). -/
def byteRow (b : Byte) : RxState → Option Instr
  | .closed => none
  | .seek => some (.rxSeek b)
  | .hdrSeq => some (.rxHdrSeq b)
  | .hdrType => some (.rxHdrType b)
  | .len0 => some (.rxLen0 b)
  | .lenHi => some (.rxLenHi b)
  | .lenLo => some (.rxLenLo b)
  | .body => some (.rxBody b)
  | .ckLo => some (.rxCkLo b)
  | .ckHi => some (.rxCkHi b)
  | .fault => none

/-- In its own state a row of `RX_BYTE` is the byte event, so what it does is said by the `rxByte` laws. -/
theorem exec_byteRow {b : Byte} {i : Instr} {x : RxState} {s : State} (hs : s.rxState = x)
    (hi : byteRow b x = some i) : exec i s = rxByte b s := by
  cases x <;> cases hi <;> simp only [exec, rxByte, hs]

/-! ### What the events leave behind -/

/-- A byte that is folded in and presents `EV_NONE` (R151): checksum, parity, state and event code change,
and no other field. -/
theorem present_none_goTo_accumulate (x : RxState) (b : Byte) (s : State) :
    present .none (goTo x (accumulate b s)) =
      { s with
        rAcc := accStep s.rAcc s.rPar b
        rPar := !s.rPar
        rxState := x
        rxEvent := .none } := rfl

/-- A one-byte length is widened without change, so it is 0 only where the byte is (R156). -/
theorem afterLength_setWidth (b : Byte) :
    afterLength (b.setWidth 16) = if b = 0x00 then .ckLo else .body := by
  have hzero : b.setWidth 16 = 0#16 ↔ b = 0x00 := by bv_omega
  simp only [afterLength, hzero]

/-! ### A byte stored in the buffer (R159) -/

theorem bufRead_stored {s t : State} {i : Nat} {b : Byte} (hbuf : t.buf = writeCell i b s.buf) :
    bufRead t i = b :=
  bufRead_written (by rw [hbuf, readCell_writeCell_same])

theorem bufRead_notStored {s t : State} {i k : Nat} {b : Byte} (hbuf : t.buf = writeCell i b s.buf)
    (hepoch : t.epoch = s.epoch) (hk : k ≠ i) : bufRead t k = bufRead s k := by
  simp only [bufRead, hbuf, hepoch, readCell_writeCell_other hk]

/-! ### The obligations, in the order of the reader's states -/

/-- Settles O21: a byte is one of the three control values, or it is noise. -/
theorem seekTakesAControlByteOrSkips : Obligations.SeekTakesAControlByteOrSkips := by
  intro b s hs hopen
  rw [exec_byteRow hs rfl, rxByte_seek hs hopen, present_none]
  by_cases hb : b = 0x02 ∨ b = 0x04 ∨ b = 0x06
  · rw [if_pos ((isControl_iff b).2 hb), if_pos hb]
    rfl
  · rw [if_neg (mt (isControl_iff b).1 hb), if_neg hb]

/-- Settles O22. -/
theorem hdrSeqTakesAnySequenceId : Obligations.HdrSeqTakesAnySequenceId := by
  intro b s hs
  rw [exec_byteRow hs rfl, rxByte_hdrSeq hs, present_none_goTo_accumulate]

/-- Settles O24: the byte is the escape, or it is the length itself. -/
theorem len0ReadsTheLengthOrTheEscape : Obligations.Len0ReadsTheLengthOrTheEscape := by
  intro b s hs
  rw [exec_byteRow hs rfl, rxByte_len0 hs]
  by_cases hb : b = 0x82#8
  · rw [if_pos hb, if_pos (show b = 0x82 from hb), present_none_goTo_accumulate]
  · rw [if_neg hb, if_neg (show b ≠ 0x82 from hb), present_none_goTo_accumulate,
      afterLength_setWidth]

/-- Settles O26. -/
theorem lenHiTakesTheHighByte : Obligations.LenHiTakesTheHighByte := by
  intro b s hs
  rw [exec_byteRow hs rfl, rxByte_lenHi hs, present_none_goTo_accumulate]

/-- Settles O27: the length is complete, and `afterLength` is the choice the statement writes out. -/
theorem lenLoTakesTheLowByte : Obligations.LenLoTakesTheLowByte := by
  intro b s hs
  rw [exec_byteRow hs rfl, rxByte_lenLo hs, present_none_goTo_accumulate, afterLength]
  rfl

/-- Settles O28: the state after the event has the buffer with one byte written at `r_cnt`, which decides what
every index reads. -/
theorem bodyStoresTheByte : Obligations.BodyStoresTheByte := by
  intro b s hs hcnt
  refine ⟨_, (exec_byteRow hs rfl).trans (rxByte_body hs hcnt b), ?_, ?_, ?_⟩
  · rw [present_none]
    rfl
  · exact bufRead_stored (s := s) rfl
  · exact fun k hk => bufRead_notStored rfl rfl hk

/-- Settles O30. -/
theorem ckLoKeepsTheByte : Obligations.CkLoKeepsTheByte := by
  intro b s hs
  rw [exec_byteRow hs rfl, rxByte_ckLo hs, present_none]
  rfl

end Sys2Proof.Machine
end

section
/-! Proofs for the family `44_queue_lifecycle.md`: `CLOSE` (R193). -/

namespace Sys2Proof.Machine

/-- `CLOSE` has no enabling condition: no case split on the reader's state stands between the instruction and
its effect (R193). -/
theorem exec_closeReader (s : State) : exec .closeReader s = execClose s := rfl

/-- The effect of `CLOSE` is one field; in particular the queue and `rx_state` stay for `SENTINEL` (R193). -/
theorem execClose_eq (s : State) : execClose s = .next { s with openFlag := false } := rfl

/-- Settles O42. -/
theorem closeOnlyClearsTheFlag : Obligations.CloseOnlyClearsTheFlag := by
  intro s
  rw [exec_closeReader, execClose_eq]

end Sys2Proof.Machine
end

section
/-! Proofs for the family `40_checksum.md`: the streaming form (R111), the laws of R114 and the seed (R110). The
laws are proved of the running checksum, whose recursion takes one byte at a time, for either parity. -/

namespace Sys2Proof.Machine

/-! ### One byte -/

/-- The 16-bit value that a byte at an index of a parity stands for (R151). -/
def placed (par : Bool) (b : Byte) : Word := if par then word 0x00 b else word b 0x00

theorem accStep_eq (acc : Word) (par : Bool) (b : Byte) : accStep acc par b = acc ^^^ placed par b := by
  cases par <;> rfl

theorem placed_zero (par : Bool) : placed par 0x00 = 0#16 := by cases par <;> rfl

theorem placed_xor (par : Bool) (b b' : Byte) : placed par (b ^^^ b') = placed par b ^^^ placed par b' := by
  cases par <;> simp [placed, word_xor]

theorem placed_injective {par : Bool} {b b' : Byte} (h : placed par b = placed par b') : b = b' := by
  cases par
  · exact (word_inj.1 h).1
  · exact (word_inj.1 h).2

/-- Two bytes from an even index on are one word of the batch form (R110). -/
theorem placed_pair (hi lo : Byte) : placed false hi ^^^ placed true lo = word hi lo := by
  simp [placed, word_xor]

theorem accStep_even (acc : Word) (b : Byte) :
    accStep acc false b = word (hiByte acc ^^^ b) (loByte acc) := by
  calc accStep acc false b = word (hiByte acc) (loByte acc) ^^^ word b 0x00 := by
        rw [word_hiByte_loByte]; rfl
    _ = word (hiByte acc ^^^ b) (loByte acc) := by
        rw [word_xor, show loByte acc ^^^ 0x00 = loByte acc from BitVec.xor_zero]

theorem accStep_odd (acc : Word) (b : Byte) :
    accStep acc true b = word (hiByte acc) (loByte acc ^^^ b) := by
  calc accStep acc true b = word (hiByte acc) (loByte acc) ^^^ word 0x00 b := by
        rw [word_hiByte_loByte]; rfl
    _ = word (hiByte acc) (loByte acc ^^^ b) := by
        rw [word_xor, show hiByte acc ^^^ 0x00 = hiByte acc from BitVec.xor_zero]

/-! ### The streaming form is the batch form (R111) -/

theorem accRun_eq_foldWords (acc : Word) (s : List Byte) :
    accRun acc false s = (foldWords acc s, s.length % 2 == 1) := by
  induction acc, s using foldWords.induct with
  | case1 acc => rfl
  | case2 acc last => rfl
  | case3 acc hi lo rest ih =>
    have hpair : accStep (accStep acc false hi) true lo = acc ^^^ word hi lo := by
      rw [accStep_eq, accStep_eq, BitVec.xor_assoc, placed_pair]
    have hparity : (hi :: lo :: rest).length % 2 = rest.length % 2 := by
      simp only [List.length_cons]; omega
    rw [accRun_cons, accRun_cons, Bool.not_false, Bool.not_true, hpair, ih, foldWords_pair, hparity]

theorem accRun_seed (s : List Byte) : accRun 0x5725#16 false s = (cksum s, s.length % 2 == 1) :=
  accRun_eq_foldWords params.ckSeed s

theorem accRun_seed_fst (s : List Byte) : (accRun 0x5725#16 false s).1 = cksum s :=
  congrArg Prod.fst (accRun_seed s)

/-- Settles O8: the two halves byte by byte, then induction over the words of the string. -/
theorem streamingChecksumIsTheBatchChecksum : Obligations.StreamingChecksumIsTheBatchChecksum :=
  ⟨fun acc b => ⟨accStep_even acc b, accStep_odd acc b⟩, accRun_seed⟩

/-! ### Linearity -/

/-- The running checksum is linear in accumulator and bytes together. -/
theorem accRun_zipWith_xor {s t : List Byte} (h : s.length = t.length) (x y : Word) (par : Bool) :
    (accRun (x ^^^ y) par (List.zipWith (fun a b => a ^^^ b) s t)).1 =
      (accRun x par s).1 ^^^ (accRun y par t).1 := by
  induction s generalizing t x y par with
  | nil =>
    obtain rfl := List.eq_nil_of_length_eq_zero h.symm
    rfl
  | cons a s ih =>
    cases t with
    | nil => cases h
    | cons b t =>
      have hstep : accStep (x ^^^ y) par (a ^^^ b) = accStep x par a ^^^ accStep y par b := by
        simp only [accStep_eq, placed_xor]
        ac_rfl
      rw [List.zipWith_cons_cons, accRun_cons, accRun_cons, accRun_cons, hstep,
        ih (Nat.succ.inj h)]

/-- What is in the accumulator beforehand is only XORed to the result. -/
theorem accRun_xor (x y : Word) (par : Bool) (s : List Byte) :
    (accRun (x ^^^ y) par s).1 = x ^^^ (accRun y par s).1 := by
  induction s generalizing y par with
  | nil => rfl
  | cons b s ih => rw [accRun_cons, accRun_cons, accStep_eq, BitVec.xor_assoc, ← accStep_eq, ih]

/-- The checksum without its seed. -/
theorem cksum_xor_seed (s : List Byte) : cksum s ^^^ 0x5725#16 = (accRun 0#16 false s).1 := by
  have h := accRun_xor 0x5725#16 0#16 false s
  rw [BitVec.xor_zero, accRun_seed_fst] at h
  rw [h, BitVec.xor_comm, ← BitVec.xor_assoc, BitVec.xor_self, BitVec.zero_xor]

theorem cksum_zipWith_xor {s t : List Byte} (h : s.length = t.length) :
    cksum s ^^^ cksum t ^^^ 0x5725#16 = cksum (List.zipWith (fun a b => a ^^^ b) s t) := by
  have hlin := accRun_zipWith_xor h 0x5725#16 0#16 false
  rw [BitVec.xor_zero, accRun_seed_fst, accRun_seed_fst, ← cksum_xor_seed t] at hlin
  rw [hlin, BitVec.xor_assoc]

/-! ### Concatenation -/

/-- The two bytes of a 16-bit value exchanged. -/
def byteSwap (w : Word) : Word := word (loByte w) (hiByte w)

/-- Started at the other parity, the running checksum has its two halves exchanged. -/
theorem accRun_byteSwap (acc : Word) (par : Bool) (s : List Byte) :
    (accRun (byteSwap acc) (!par) s).1 = byteSwap (accRun acc par s).1 := by
  induction s generalizing acc par with
  | nil => rfl
  | cons b s ih =>
    have hstep : accStep (byteSwap acc) (!par) b = byteSwap (accStep acc par b) := by
      cases par <;> simp [byteSwap, accStep_even, accStep_odd]
    rw [accRun_cons, accRun_cons, hstep, ih]

/-- The checksum of a concatenation: the second string goes on from the first one's result and parity. -/
theorem cksum_append (s t : List Byte) :
    cksum (s ++ t) = cksum s ^^^ (accRun 0#16 (s.length % 2 == 1) t).1 := by
  calc cksum (s ++ t) = (accRun (cksum s) (s.length % 2 == 1) t).1 := by
        have h := congrArg Prod.fst (accRun_append 0x5725#16 false s t)
        rwa [accRun_seed, accRun_seed] at h
    _ = cksum s ^^^ (accRun 0#16 (s.length % 2 == 1) t).1 := by
        rw [← accRun_xor, BitVec.xor_zero]

theorem cksum_append_even {s : List Byte} (h : s.length % 2 = 0) (t : List Byte) :
    cksum (s ++ t) = cksum s ^^^ cksum t ^^^ 0x5725#16 := by
  rw [cksum_append, h, BitVec.xor_assoc, cksum_xor_seed]
  rfl

theorem cksum_append_odd {s : List Byte} (h : s.length % 2 = 1) (t : List Byte) :
    cksum (s ++ t) = cksum s ^^^ byteSwap (cksum t ^^^ 0x5725#16) := by
  rw [cksum_append, h, cksum_xor_seed, ← accRun_byteSwap]
  rfl

theorem accRun_zeros (acc : Word) (par : Bool) (n : Nat) :
    (accRun acc par (List.replicate n 0x00)).1 = acc := by
  induction n generalizing par with
  | zero => rfl
  | succ n ih =>
    rw [List.replicate_succ, accRun_cons, accStep_eq, placed_zero, BitVec.xor_zero, ih]

/-- Settles O9, law by law: linearity, concatenation for both parities, trailing zeros. -/
theorem checksumLaws : Obligations.ChecksumLaws := by
  refine ⟨fun s t h => cksum_zipWith_xor h, fun s t => ⟨?_, ?_, fun n => ?_⟩⟩
  · exact fun h => cksum_append_even h t
  · exact fun h => cksum_append_odd h t
  · exact (cksum_append s _).trans (by rw [accRun_zeros, BitVec.xor_zero])

/-! ### One changed byte -/

/-- A changed byte changes the accumulator, and the bytes behind it cannot undo that. -/
theorem accRun_cons_injective {acc : Word} {par : Bool} {a b : Byte} {back : List Byte}
    (h : (accRun acc par (a :: back)).1 = (accRun acc par (b :: back)).1) : a = b := by
  have hacc (c : Byte) : (accRun acc par (c :: back)).1 =
      placed par c ^^^ (accRun acc (!par) back).1 := by
    rw [accRun_cons, accStep_eq, BitVec.xor_comm, accRun_xor]
  rw [hacc, hacc] at h
  exact placed_injective ((BitVec.xor_left_inj _).1 h)

/-- Settles O10: the strings before the byte give one accumulator and parity, from which the byte decides. -/
theorem checksumDetectsOneChangedByte : Obligations.ChecksumDetectsOneChangedByte := by
  intro front back a b hab h
  rw [cksum_append, cksum_append] at h
  exact hab (accRun_cons_injective ((BitVec.xor_right_inj _).1 h))

/-! ### The seed -/

theorem exec_ckSeed (s : State) : exec .ckSeed s = .next { s with result := .value params.ckSeed } := rfl

theorem cksum_nil : cksum [] = params.ckSeed := rfl

/-- Settles O6: no byte is folded into the seed. -/
theorem seedIsTheChecksumOfNothing : Obligations.SeedIsTheChecksumOfNothing := by
  intro s
  exact ⟨exec_ckSeed s, (exec_cksum [] s).trans (by rw [cksum_nil]; rfl)⟩

end Sys2Proof.Machine
end

section
/-! Proofs for the family `41_length.md`: the forms of the length field and the way back from them (R120 to
R122). -/

namespace Sys2Proof.Machine

/-! ### The one-byte form -/

/-- A length of at most 255 is read back from its byte. -/
theorem setWidth_ofNat {n : Nat} (h : n ≤ 255) :
    (BitVec.ofNat 8 n).setWidth 16 = BitVec.ofNat 16 n := by
  apply BitVec.eq_of_toNat_eq
  simp only [BitVec.toNat_setWidth, BitVec.toNat_ofNat]
  omega

/-- Of the lengths sent as one byte only 130 is the escape (R122). -/
theorem ofNat_eq_escape_iff {n : Nat} (h : n ≤ 255) : BitVec.ofNat 8 n = 0x82#8 ↔ n = 130 := by
  rw [← BitVec.toNat_inj, BitVec.toNat_ofNat]
  simp only [BitVec.toNat_ofNat]
  omega

/-! ### The extended form -/

theorem bigEndian_ofNat (n : Nat) :
    bigEndian (BitVec.ofNat 16 n) = [BitVec.ofNat 8 (n / 256), BitVec.ofNat 8 n] := by
  have hhi : hiByte (BitVec.ofNat 16 n) = BitVec.ofNat 8 (n / 256) := by
    apply BitVec.eq_of_toNat_eq
    simp only [hiByte, BitVec.extractLsb'_toNat, BitVec.toNat_ofNat, Nat.shiftRight_eq_div_pow]
    omega
  have hlo : loByte (BitVec.ofNat 16 n) = BitVec.ofNat 8 n := by
    apply BitVec.eq_of_toNat_eq
    simp only [loByte, BitVec.extractLsb'_toNat, BitVec.toNat_ofNat, Nat.shiftRight_zero]
    omega
  rw [bigEndian, hhi, hlo]

theorem lenDec_bigEndian (w : Word) (rest : List Byte) :
    lenDec (0x82#8 :: (bigEndian w ++ rest)) = some (w, 3) := by
  have h := lenDec_ext (hiByte w) (loByte w) rest
  rwa [word_hiByte_loByte] at h

/-! ### The obligations -/

theorem exec_lenEnc (n : Nat) (s : State) :
    exec (.lenEnc n) s = .next { s with result := bytesOrTooLarge (lenEnc n) } := rfl

theorem bytesOrTooLarge_some (bytes : List Byte) : bytesOrTooLarge (some bytes) = .bytes bytes := rfl

theorem bytesOrTooLarge_none : bytesOrTooLarge none = .error .lengthTooLarge := rfl

/-- Settles O11: one form for each range of the value. -/
theorem lenEncForms : Obligations.LenEncForms := by
  intro n s
  rw [exec_lenEnc]
  refine ⟨fun h => ?_, fun h h' => ?_, fun h => ?_⟩
  · rw [lenEnc_short h, bytesOrTooLarge_some]
  · rw [lenEnc_ext h h', bytesOrTooLarge_some, bigEndian_ofNat]
    rfl
  · rw [lenEnc_tooLarge h, bytesOrTooLarge_none]

theorem lenDec_nil : lenDec [] = none := rfl

theorem lenDec_escape_alone : lenDec [0x82] = none := rfl

theorem lenDec_escape_one (b : Byte) : lenDec [0x82, b] = none := rfl

theorem lengthResult_none : lengthResult none = .needMore := rfl

/-- Settles O13: the three strings that end before the form they announce. -/
theorem lenDecOfTooFewBytes : Obligations.LenDecOfTooFewBytes := by
  intro s
  refine ⟨?_, ?_, fun b => ?_⟩
  · rw [exec_lenDec, lenDec_nil, lengthResult_none]
  · rw [exec_lenDec, lenDec_escape_alone, lengthResult_none]
  · rw [exec_lenDec, lenDec_escape_one, lengthResult_none]

/-- Settles O14: the one-byte form gives its length back where it is not the escape, the extended form always;
the length 130 is the escape itself. -/
theorem lengthFieldRoundTrip : Obligations.LengthFieldRoundTrip := by
  refine ⟨fun n t hn hne => ?_, rfl, fun hi lo t => lenDec_ext hi lo t⟩
  by_cases hshort : n ≤ 255
  · refine ⟨_, lenEnc_short hshort, ?_⟩
    have hesc : BitVec.ofNat 8 n ≠ 0x82#8 := mt (ofNat_eq_escape_iff hshort).1 hne
    rw [List.singleton_append, lenDec_short hesc, setWidth_ofNat hshort]
    rfl
  · exact ⟨_, lenEnc_ext (by omega) hn, lenDec_bigEndian _ t⟩

end Sys2Proof.Machine
end

section
/-! Proofs for the family `42_tx_encode.md`: the sequence counter, the refusals, the sizes and the
pseudo-operations of the acknowledgement (R100, R130, R132, R134, R137). -/

namespace Sys2Proof.Machine

/-! ### The sequence counter -/

theorem exec_nextSeq (s : State) :
    exec .nextSeq s = .next (give (.byte (nextSeqValue s)) (advanceSeq s)) := rfl

theorem drawSeq_fst (returnsOld : Bool) (ctr : Byte) :
    (drawSeq returnsOld ctr).1 = if returnsOld then ctr else ctr + 1 := by
  rw [drawSeq, nextId_eq]
  rfl

theorem nextSeqValue_eq (s : State) :
    nextSeqValue s = if params.seqReturnsOld then s.seqCtr else s.seqCtr + 1 :=
  drawSeq_fst params.seqReturnsOld s.seqCtr

/-- Settles O15. -/
theorem nextSeqAdvancesByOne : Obligations.NextSeqAdvancesByOne := by
  constructor
  · intro s
    rw [exec_nextSeq, give_advanceSeq, nextSeqValue_eq]
  · intro returnsOld ctr
    refine ⟨drawSeq_snd returnsOld ctr, ?_⟩
    rw [drawSeq_snd, drawSeq_fst, drawSeq_fst]
    cases returnsOld <;> rfl

/-! ### Refusals and sizes -/

/-- Settles O17: a payload or an input outside the bound leaves only the refusing case of each encoder. -/
theorem encoderRefusalsGoToTheCaller : Obligations.EncoderRefusalsGoToTheCaller := by
  constructor
  · intro messageId payload s hlong
    rcases execEncCmd_cases messageId payload s with ⟨hshort, _⟩ | ⟨_, hexec⟩
    · omega
    · rw [exec_encCmd, hexec, give]
  · intro f s hshort
    rcases ackResult_cases f with ⟨hlong, _⟩ | ⟨_, hresult⟩
    · omega
    · rw [exec_encAck, hresult]

/-- The size of a length field is that of its form (R120). -/
theorem lenEnc_length {n : Nat} {field : List Byte} (h : lenEnc n = some field) :
    field.length = if n ≤ 255 then 1 else 3 := by
  by_cases hshort : n ≤ 255
  · rw [lenEnc_short hshort] at h
    obtain rfl := Option.some.inj h
    rw [if_pos hshort, List.length_singleton]
  · by_cases hext : n ≤ 65535
    · rw [lenEnc_ext (by omega) hext] at h
      obtain rfl := Option.some.inj h
      rw [if_neg hshort, List.length_cons, bigEndian_length]
    · rw [lenEnc_tooLarge (by omega)] at h
      cases h

theorem commandBody_length (seq : Byte) (field : List Byte) (messageId : Byte) (payload : List Byte) :
    (commandBody seq field messageId payload).length = field.length + payload.length + 3 := by
  simp only [commandBody, List.length_append, List.length_singleton]
  omega

/-- Settles O18: a frame is three bytes longer than its body. -/
theorem encodedFrameSizes : Obligations.EncodedFrameSizes := by
  constructor
  · intro messageId payload s hlen
    rcases execEncCmd_cases messageId payload s with ⟨_, field, hfield, hexec⟩ | ⟨hlong, _⟩
    · refine ⟨_, _, (exec_encCmd messageId payload s).trans hexec, rfl, ?_⟩
      rw [frameBytes_length, commandBody_length, lenEnc_length hfield]
      split <;> split <;> omega
    · omega
  · intro f s hlen
    rcases ackResult_cases f with ⟨_, hresult⟩ | ⟨hshort, _⟩
    · refine ⟨_, _, exec_encAck f s, hresult, ?_⟩
      rw [frameBytes_length, List.length_take, List.length_drop]
      omega
    · omega

/-! ### The pseudo-operations -/

theorem exec_encAckPair (seq mtype : Byte) (s : State) :
    exec (.encAckPair seq mtype) s = exec (.encAck [0x00, seq, mtype]) s := rfl

theorem exec_ackOf (f : Frame) (s : State) :
    exec (.ackOf f) s = exec (.encAckPair f.sequenceId f.messageType) s := rfl

/-- The checksum of a header pair alone is one word folded into the seed. -/
theorem cksum_pair (seq mtype : Byte) : cksum [seq, mtype] = 0x5725#16 ^^^ word seq mtype := rfl

/-- The five bytes of an acknowledgement (R133, marked derived there). -/
theorem frameBytes_pair (seq mtype : Byte) :
    frameBytes 0x06 [seq, mtype] = [0x06, seq, mtype, 0x25 ^^^ mtype, 0x57 ^^^ seq] := by
  have hck : cksum [seq, mtype] = word (0x57 ^^^ seq) (0x25 ^^^ mtype) :=
    (cksum_pair seq mtype).trans (word_xor 0x57 0x25 seq mtype)
  rw [frameBytes, cksumBytes, littleEndian_eq, hck, loByte_word, hiByte_word]
  rfl

theorem exec_encAck_pair (x seq mtype : Byte) (s : State) :
    exec (.encAck [x, seq, mtype]) s =
      .next { s with result := .bytes [0x06, seq, mtype, 0x25 ^^^ mtype, 0x57 ^^^ seq] } := by
  rw [exec_encAck, ackResult_pair, frameBytes_pair]

/-- Settles O20: each operation is its expansion, and the byte in front of the pair does not matter. -/
theorem ackPseudoOperationsExpand : Obligations.AckPseudoOperationsExpand := by
  intro x seq mtype f s
  refine ⟨?_, ?_, ?_⟩
  · rw [exec_encAckPair, exec_encAck_pair, exec_encAck_pair]
  · rw [exec_encAckPair, exec_encAck_pair]
  · rw [exec_ackOf, exec_encAckPair, exec_encAck_pair]

end Sys2Proof.Machine
end

section
/-! Proofs for the family `44_queue_lifecycle.md`: the queue, `OPEN`, `SENTINEL` and `RESET` (R190 to R194,
R240). -/

namespace Sys2Proof.Machine

/-! ### Queue -/

/-- Taking the exception, field by field (R190, R214). -/
theorem raiseOverflow_eq (s : State) :
    raiseOverflow s =
      { s with
        faultOverflow := true
        rxState := .fault
        rxEvent := .overflow
        eventLog := .overflow :: s.eventLog } := rfl

/-- Settles O38: the two cases of a push exclude each other by the number of entries. -/
theorem pushAppendsOrOverflows : Obligations.PushAppendsOrOverflows := by
  intro e goOn s
  rcases push_cases e goOn s with ⟨hroom, hpush⟩ | ⟨hfull, hpush⟩
  · exact ⟨fun hfull => absurd hfull hroom, fun _ => hpush⟩
  · exact ⟨fun _ => hpush.trans (raiseOverflow_eq s), fun hroom => absurd hfull hroom⟩

theorem exec_pop (s : State) :
    exec .pop s = whenEnabled (!s.queue.isEmpty) (fun s => .next (popEntries 1 s)) s := rfl

theorem exec_drain (s : State) : exec .drain s = .next (popEntries s.queue.length s) := rfl

/-- Settles O39. -/
theorem popReturnsTheOldestEntry : Obligations.PopReturnsTheOldestEntry := by
  intro s
  refine ⟨fun e rest hq => ?_, fun hq => ?_⟩
  · rw [exec_pop, hq, List.isEmpty_cons, Bool.not_false, whenEnabled_true, popEntries, hq]
    rfl
  · rw [exec_pop, hq, List.isEmpty_nil, Bool.not_true, whenEnabled_false]

/-- Settles O40: all entries are taken, none is left. -/
theorem drainEmptiesTheQueue : Obligations.DrainEmptiesTheQueue := by
  intro s
  rw [exec_drain, popEntries, List.drop_length, List.take_length]

/-! ### Lifecycle -/

theorem exec_openReader (s : State) :
    exec .openReader s =
      whenEnabled (s.rxState == .closed) (fun s => .next { s with openFlag := true, rxState := .seek }) s := rfl

theorem exec_sentinel (s : State) :
    exec .sentinel s =
      whenEnabled (sentinelEnabled s)
        (fun s => .next (push .sentinel (fun s => present .sentinel (goTo .closed s)) s)) s := rfl

theorem exec_reset (s : State) : exec .reset s = .next (resetBlock s) := rfl

/-- Settles O41. -/
theorem openStartsTheReader : Obligations.OpenStartsTheReader := by
  intro s
  refine ⟨fun hclosed => ?_, fun hother => ?_⟩
  · rw [exec_openReader, beq_iff_eq.2 hclosed, whenEnabled_true]
  · rw [exec_openReader, beq_eq_false_iff_ne.2 hother, whenEnabled_false]

/-- Settles O43: the iteration check finds the flag clear, and the push has room or takes the exception. -/
theorem sentinelClosesTheReader : Obligations.SentinelClosesTheReader := by
  intro s hseek hclear
  rw [exec_sentinel, (sentinelEnabled_iff s).2 ⟨hseek, hclear⟩, whenEnabled_true]
  rcases push_cases .sentinel (fun s => present .sentinel (goTo .closed s)) s with
    ⟨hroom, hpush⟩ | ⟨hfull, hpush⟩
  · rw [hpush, if_neg hroom]
    rfl
  · rw [hpush, if_pos hfull, raiseOverflow_eq]

/-- Settles O44: the values R32 gives are those `resetBlock` and `State.reset` write. -/
theorem resetReturnsToTheInitialState : Obligations.ResetReturnsToTheInitialState := by
  refine ⟨fun s => ⟨resetBlock s, exec_reset s, ?_⟩, ?_⟩
  · simp only [resetBlock_seqCtr, resetBlock_rxState, resetBlock_openFlag, resetBlock_faultOverflow,
      resetBlock_queue, resetBlock_rxEvent, resetBlock_eventLog, resetBlock_result,
      resetBlock_delivered, resetBlock_inbox, and_self]
  · exact ⟨rfl, rfl, rfl, rfl, rfl, rfl⟩

end Sys2Proof.Machine
end

section
/-! Proofs for the family `43_rx_reassembly.md`: the states HDR_TYPE, BODY at its bound and CK_HI, and the code
values in their fields (R85 to R87, R155, R159, R161). -/

namespace Sys2Proof.Machine

/-! ### HDR_TYPE (R155) -/

/-- A message type is one of three values (R86). -/
theorem isMessageType_eq_false_iff (b : Byte) :
    isMessageType b = false ↔ b ≠ 0xA0#8 ∧ b ≠ 0xA1#8 ∧ b ≠ 0xBB#8 := by
  rw [← Bool.not_eq_true, isMessageType_iff, not_or, not_or]

/-- A recognised type goes on to the length or to the checksum, by the category. -/
theorem rxByte_type {s : State} (hs : s.rxState = .hdrType) {b : Byte} (hb : isMessageType b = true) :
    rxByte b s =
      .next { s with
        rMtype := b
        rAcc := accStep s.rAcc s.rPar b
        rPar := !s.rPar
        rxState := if s.rCtl = 0x02 then .len0 else .ckLo
        rxEvent := .none } := by
  rw [rxByte_hdrType hs, hb, if_pos rfl, present_none_goTo_accumulate]
  rfl

/-- An unrecognised type abandons the candidate (R93, R211). -/
theorem rxByte_badType {s : State} (hs : s.rxState = .hdrType) {b : Byte} (hb : isMessageType b = false) :
    rxByte b s =
      .next { s with
        rMtype := b
        rAcc := accStep s.rAcc s.rPar b
        rPar := !s.rPar
        rxState := .seek
        rxEvent := .badMtype
        eventLog := .badMtype :: s.eventLog } := by
  rw [rxByte_hdrType hs, hb, if_neg Bool.false_ne_true]
  rfl

/-- Settles O23: the type is recognised or it is not. -/
theorem hdrTypeTestsTheType : Obligations.HdrTypeTestsTheType := by
  intro b s hs
  rw [exec_byteRow hs rfl]
  cases hb : isMessageType b with
  | false =>
    have hbad : b ≠ 0xA0 ∧ b ≠ 0xA1 ∧ b ≠ 0xBB := (isMessageType_eq_false_iff b).1 hb
    rw [rxByte_badType hs hb, if_pos hbad]
  | true =>
    have hrec : ¬(b ≠ 0xA0 ∧ b ≠ 0xA1 ∧ b ≠ 0xBB) := fun h =>
      Bool.false_ne_true (((isMessageType_eq_false_iff b).2 h).symm.trans hb)
    rw [rxByte_type hs hb, if_neg hrec]

/-! ### BODY at its bound (R159) -/

/-- Settles O29: the write at index 65535 is outside the buffer. -/
theorem bodyOutsideTheBufferFaults : Obligations.BodyOutsideTheBufferFaults := by
  intro b s hs hcnt
  rw [exec_byteRow hs rfl, rxByte_body_outOfRange hs hcnt.ge]

/-! ### CK_HI (R161) -/

theorem rxByte_mismatch {s : State} (hs : s.rxState = .ckHi) {b : Byte} (hb : word b s.rCklo ≠ s.rAcc) :
    rxByte b s =
      .next { s with rxState := .seek, rxEvent := .badCksum, eventLog := .badCksum :: s.eventLog } := by
  rw [rxByte_ckHi hs, if_neg hb]
  rfl

theorem rxByte_match {s : State} (hs : s.rxState = .ckHi) {b : Byte} (hb : word b s.rCklo = s.rAcc) :
    rxByte b s = .next (emitCandidate s) := by
  rw [rxByte_ckHi hs, if_pos hb]

/-- Settles O31. -/
theorem checksumMismatchDiscards : Obligations.ChecksumMismatchDiscards := by
  intro b s hs hb
  rw [exec_byteRow hs rfl, rxByte_mismatch hs hb]

/-- Settles O32: the candidate is not the degenerate one, so it is emitted or overflows. -/
theorem checksumMatchEmitsOrOverflows : Obligations.ChecksumMatchEmitsOrOverflows := by
  intro b s hs hb hne
  rw [exec_byteRow hs rfl, rxByte_match hs hb]
  rcases emitCandidate_cases s with ⟨hctl, hlen, _⟩ | ⟨_, hfull, hemit⟩ | ⟨_, hroom, hemit⟩
  · exact absurd ⟨hctl, hlen⟩ hne
  · rw [hemit, if_pos hfull, raiseOverflow_eq]
  · rw [hemit, if_neg hroom]
    rfl

/-- Settles O33: the degenerate candidate is dropped whatever the queue holds. -/
theorem zeroLengthIsDropped : Obligations.ZeroLengthIsDropped := by
  intro b s hs hb hctl hlen
  rw [exec_byteRow hs rfl, rxByte_match hs hb]
  rcases emitCandidate_cases s with ⟨_, _, hemit⟩ | ⟨hne, _⟩ | ⟨hne, _⟩
  · rw [hemit]
    rfl
  · exact absurd ⟨hctl, hlen⟩ hne
  · exact absurd ⟨hctl, hlen⟩ hne

/-! ### The code values (log 14) -/

theorem exec_ctlSof (s : State) : exec .ctlSof s = exec (.rxSeek 0x02) s := rfl
theorem exec_ctlEot (s : State) : exec .ctlEot s = exec (.rxSeek 0x04) s := rfl
theorem exec_ctlAck (s : State) : exec .ctlAck s = exec (.rxSeek 0x06) s := rfl
theorem exec_mtCommand (s : State) : exec .mtCommand s = exec (.rxHdrType 0xA0) s := rfl
theorem exec_mtResponse (s : State) : exec .mtResponse s = exec (.rxHdrType 0xA1) s := rfl
theorem exec_mtNotification (s : State) : exec .mtNotification s = exec (.rxHdrType 0xBB) s := rfl
theorem exec_lenEsc (s : State) : exec .lenEsc s = exec (.rxLen0 0x82) s := rfl

/-- Settles O25: each code value takes its branch of the byte event of its field. -/
theorem codeValuesAreConsumedInTheirFields : Obligations.CodeValuesAreConsumedInTheirFields := by
  intro s
  refine ⟨fun hs hopen => ⟨?_, ?_, ?_⟩, fun hs => ⟨?_, ?_, ?_⟩, fun hs => ?_⟩
  · rw [exec_ctlSof, seekTakesAControlByteOrSkips 0x02 s hs hopen, if_pos (.inl rfl)]
  · rw [exec_ctlEot, seekTakesAControlByteOrSkips 0x04 s hs hopen, if_pos (.inr (.inl rfl))]
  · rw [exec_ctlAck, seekTakesAControlByteOrSkips 0x06 s hs hopen, if_pos (.inr (.inr rfl))]
  · rw [exec_mtCommand, exec_byteRow hs rfl, rxByte_type hs (by decide)]
  · rw [exec_mtResponse, exec_byteRow hs rfl, rxByte_type hs (by decide)]
  · rw [exec_mtNotification, exec_byteRow hs rfl, rxByte_type hs (by decide)]
  · rw [exec_lenEsc, len0ReadsTheLengthOrTheEscape 0x82 s hs, if_pos rfl]

end Sys2Proof.Machine
end

section
/-! Proofs for the family `30_encoding.md`: what the decoder reads from an encoding, and what it can read at all
(R80 to R93). -/

namespace Sys2Proof.Machine

/-! ### The parts of a candidate, with any bytes behind them -/

theorem decodeChecksum_littleEndian (make : Word → Instr) (ck : Word) (rest : List Byte) :
    decodeChecksum make (littleEndian ck ++ rest) = .ok (make ck) rest := by
  rw [littleEndian_eq, List.cons_append, List.singleton_append, decodeChecksum, word_hiByte_loByte]

/-- A region is found by counting, whatever its bytes are (R91). -/
theorem decodeRegion_append (make : List Byte → Word → Instr) (region : List Byte) (ck : Word)
    (rest : List Byte) :
    decodeRegion make region.length (region ++ (littleEndian ck ++ rest)) = .ok (make region ck) rest := by
  rw [decodeRegion, List.take_left, List.drop_left, decodeChecksum_littleEndian]

theorem decodeSof_length (mtype seq : Byte) {len0 : Byte} (h : len0 ≠ 0x82#8) (s : List Byte) :
    decodeSof mtype seq (len0 :: s) = decodeRegion (sofShortInstr mtype seq) len0.toNat s := by
  simp only [decodeSof, params_lenEsc, h, if_false]

theorem decodeSof_short (mtype seq : Byte) {region : List Byte} (h : shortRegion region = true) (ck : Word)
    (rest : List Byte) :
    decodeSof mtype seq (BitVec.ofNat 8 region.length :: (region ++ (littleEndian ck ++ rest))) =
      .ok (sofShortInstr mtype seq region ck) rest := by
  obtain ⟨hlen, hesc⟩ := (shortRegion_iff region).1 h
  have hsize : (BitVec.ofNat 8 region.length).toNat = region.length := by
    rw [BitVec.toNat_ofNat]; omega
  rw [decodeSof_length mtype seq hesc, hsize, decodeRegion_append]

theorem decodeSof_ext (mtype seq : Byte) {region : List Byte} (h : extRegion region = true) (ck : Word)
    (rest : List Byte) :
    decodeSof mtype seq
        (0x82#8 :: (bigEndian (BitVec.ofNat 16 region.length) ++ (region ++ (littleEndian ck ++ rest)))) =
      .ok (sofExtInstr mtype seq region ck) rest := by
  have hlen := (extRegion_iff region).1 h
  have hsize : (BitVec.ofNat 16 region.length).toNat = region.length := by
    rw [BitVec.toNat_ofNat]; omega
  simp only [decodeSof, params_lenEsc, if_true, bigEndian, List.cons_append, List.nil_append,
    word_hiByte_loByte, hsize, decodeRegion_append]

/-! ### Whole candidates -/

theorem decodeFrame_control {ctl : Byte} (h : isControl ctl = true) (rest : List Byte) :
    decodeFrame (ctl :: rest) = decodeHeader ctl rest := by
  rw [decodeFrame, h, if_pos rfl]

theorem decodeFrame_noise {b : Byte} (h : isControl b = false) (rest : List Byte) :
    decodeFrame (b :: rest) = .ok (.ctlUnrecognised b) rest := by
  rw [decodeFrame, h, if_neg Bool.false_ne_true]

/-- A candidate whose bytes are all there is what the reader recognises at a boundary. -/
theorem decode_seek_of_decodeFrame {s rest : List Byte} {i : Instr} (h : decodeFrame s = .ok i rest) :
    decode .seek s = .ok i rest := by
  cases s with
  | nil => cases h
  | cons b s => rw [decode, if_pos rfl, decodeBoundary, h]

theorem decode_sofShort {mtype : Byte} (hm : isMessageType mtype = true) (seq : Byte) {region : List Byte}
    (h : shortRegion region = true) (ck : Word) (rest : List Byte) :
    decode .seek (sofShortBytes mtype seq region ck ++ rest) =
      .ok (sofShortInstr mtype seq region ck) rest := by
  apply decode_seek_of_decodeFrame
  simp only [sofShortBytes, List.cons_append, List.append_assoc]
  rw [decodeFrame_control (by decide), decodeHeader, hm, if_pos rfl, if_pos rfl,
    decodeSof_short mtype seq h]

theorem decode_sofExt {mtype : Byte} (hm : isMessageType mtype = true) (seq : Byte) {region : List Byte}
    (h : extRegion region = true) (ck : Word) (rest : List Byte) :
    decode .seek (sofExtBytes mtype seq region ck ++ rest) = .ok (sofExtInstr mtype seq region ck) rest := by
  apply decode_seek_of_decodeFrame
  simp only [sofExtBytes, List.cons_append, List.append_assoc]
  rw [decodeFrame_control (by decide), decodeHeader, hm, if_pos rfl, if_pos rfl, params_lenEsc,
    decodeSof_ext mtype seq h]

theorem decode_eot {mtype : Byte} (hm : isMessageType mtype = true) (seq : Byte) (ck : Word)
    (rest : List Byte) :
    decode .seek (pairFrameBytes params.ctlEot mtype seq ck ++ rest) = .ok (eotInstr mtype seq ck) rest := by
  apply decode_seek_of_decodeFrame
  simp only [pairFrameBytes, List.cons_append]
  rw [decodeFrame_control (by decide), decodeHeader, hm, if_pos rfl, if_neg (by decide), if_pos rfl,
    decodeChecksum_littleEndian]

theorem decode_ack {mtype : Byte} (hm : isMessageType mtype = true) (seq : Byte) (ck : Word)
    (rest : List Byte) :
    decode .seek (pairFrameBytes params.ctlAck mtype seq ck ++ rest) = .ok (ackInstr mtype seq ck) rest := by
  apply decode_seek_of_decodeFrame
  simp only [pairFrameBytes, List.cons_append]
  rw [decodeFrame_control (by decide), decodeHeader, hm, if_pos rfl, if_neg (by decide), if_neg (by decide),
    decodeChecksum_littleEndian]

theorem decode_noise {b : Byte} (h : isControl b = false) (rest : List Byte) :
    decode .seek (b :: rest) = .ok (.ctlUnrecognised b) rest :=
  decode_seek_of_decodeFrame (decodeFrame_noise h rest)

/-- The type test comes before the format is told from the control byte (R93). -/
theorem decode_badType {ctl mtype : Byte} (hc : isControl ctl = true) (hm : isMessageType mtype = false)
    (seq : Byte) (rest : List Byte) :
    decode .seek (ctl :: seq :: mtype :: rest) = .ok (.mtUnrecognised ctl seq mtype) rest := by
  apply decode_seek_of_decodeFrame
  rw [decodeFrame_control hc, decodeHeader, hm, if_neg Bool.false_ne_true]

/-- The constraint of the row of an unrecognised type, taken apart. -/
theorem wellFormed_mtUnrecognised_iff (ctl seq mtype : Byte) :
    WellFormed (.mtUnrecognised ctl seq mtype) = true ↔
      isControl ctl = true ∧ isMessageType mtype = false := by
  simp [WellFormed]

theorem wellFormed_ctlUnrecognised_iff (b : Byte) :
    WellFormed (.ctlUnrecognised b) = true ↔ isControl b = false := by
  simp [WellFormed]

theorem encode_rxHdrType_iff (b : Byte) (pos : RxState) (bytes : List Byte) :
    encode (.rxHdrType b) = some (pos, bytes) ↔ isMessageType b = false ∧ pos = .hdrType ∧ bytes = [b] := by
  cases h : isMessageType b <;> simp [encode, h, eq_comm]

theorem encode_rxLen0_iff (b : Byte) (pos : RxState) (bytes : List Byte) :
    encode (.rxLen0 b) = some (pos, bytes) ↔ b ≠ 0x82#8 ∧ pos = .len0 ∧ bytes = [b] := by
  by_cases h : b = 0x82#8 <;> simp [encode, h, eq_comm]

/-- Settles O2: row by row. A single code value is encoded for a boundary too, but it is shorter than any
candidate; every other instruction stands elsewhere or nowhere. -/
theorem candidatesDecodeBeforeAnyBytes : Obligations.CandidatesDecodeBeforeAnyBytes := by
  intro i bytes rest hwf henc hlong
  cases i with
  | sofShortCmd seq region ck | sofShortRsp seq region ck | sofShortNtf seq region ck =>
    cases henc
    exact decode_sofShort (by decide) seq hwf ck rest
  | sofExtCmd seq region ck | sofExtRsp seq region ck | sofExtNtf seq region ck =>
    cases henc
    exact decode_sofExt (by decide) seq hwf ck rest
  | eotCmd seq ck | eotRsp seq ck | eotNtf seq ck =>
    cases henc
    exact decode_eot (by decide) seq ck rest
  | ackCmd seq ck | ackRsp seq ck | ackNtf seq ck =>
    cases henc
    exact decode_ack (by decide) seq ck rest
  | ctlUnrecognised b =>
    cases henc
    exact decode_noise ((wellFormed_ctlUnrecognised_iff b).1 hwf) rest
  | mtUnrecognised ctl seq mtype =>
    cases henc
    obtain ⟨hc, hm⟩ := (wellFormed_mtUnrecognised_iff ctl seq mtype).1 hwf
    exact decode_badType hc hm seq rest
  | ctlSof | ctlEot | ctlAck =>
    cases henc
    obtain hthree | ⟨b, hb⟩ := hlong
    · exact absurd hthree (by decide)
    · cases hb
  | rxHdrType b => cases ((encode_rxHdrType_iff b _ bytes).1 henc).2.1
  | rxLen0 b => cases ((encode_rxLen0_iff b _ bytes).1 henc).2.1
  | _ => cases henc

/-! ### Single bytes (logs 13 and 14) -/

theorem typeInstr_of_unrecognised {b : Byte} (h : isMessageType b = false) : typeInstr b = .rxHdrType b := by
  obtain ⟨hcmd, hrsp, hntf⟩ := (isMessageType_eq_false_iff b).1 h
  rw [typeInstr, params_mtCommand, if_neg hcmd, params_mtResponse, if_neg hrsp, params_mtNotification,
    if_neg hntf]

theorem lengthInstr_of_length {b : Byte} (h : b ≠ 0x82#8) : lengthInstr b = .rxLen0 b := if_neg h

/-- Settles O1: a candidate row decodes before any bytes, so before none; a single byte at its position is read
by the row of its value. -/
theorem wireInstructionsDecodeBack : Obligations.WireInstructionsDecodeBack := by
  intro i pos bytes hwf henc
  by_cases hcand : pos = .seek ∧ (3 ≤ bytes.length ∨ ∃ b, i = .ctlUnrecognised b)
  · obtain ⟨rfl, hlong⟩ := hcand
    simpa only [List.append_nil] using candidatesDecodeBeforeAnyBytes i bytes [] hwf henc hlong
  · cases i with
    | sofShortCmd seq region ck | sofShortRsp seq region ck | sofShortNtf seq region ck
    | sofExtCmd seq region ck | sofExtRsp seq region ck | sofExtNtf seq region ck
    | eotCmd seq ck | eotRsp seq ck | eotNtf seq ck | ackCmd seq ck | ackRsp seq ck | ackNtf seq ck
    | mtUnrecognised ctl seq mtype =>
      cases henc
      exact absurd ⟨rfl, .inl (Nat.le_add_left 3 _)⟩ hcand
    | ctlUnrecognised b =>
      cases henc
      exact absurd ⟨rfl, .inr ⟨b, rfl⟩⟩ hcand
    | ctlSof | ctlEot | ctlAck | mtCommand | mtResponse | mtNotification | lenEsc | rxHdrSeq b
    | rxLenHi b | rxLenLo b | rxBody b | rxCkLo b | rxCkHi b =>
      cases henc
      rfl
    | rxHdrType b =>
      obtain ⟨hb, rfl, rfl⟩ := (encode_rxHdrType_iff b pos bytes).1 henc
      exact congrArg (Decoded.ok · []) (typeInstr_of_unrecognised hb)
    | rxLen0 b =>
      obtain ⟨hb, rfl, rfl⟩ := (encode_rxLen0_iff b pos bytes).1 henc
      exact congrArg (Decoded.ok · []) (lengthInstr_of_length hb)
    | _ => cases henc

/-- Settles O4: two samples are single bytes, six are candidates with nothing behind them. -/
theorem sampleWordsDecode : Obligations.SampleWordsDecode := by
  refine ⟨?_, ?_, ?_, ?_, ?_, ?_, rfl, rfl⟩
  · exact wireInstructionsDecodeBack (.sofShortCmd 0x00 [0xF0] 0x5675) .seek _ rfl rfl
  · exact wireInstructionsDecodeBack (.sofExtCmd 0x00 [0xF0] 0xD475) .seek _ rfl rfl
  · exact wireInstructionsDecodeBack (.eotNtf 0x10 0x479E) .seek _ rfl rfl
  · exact wireInstructionsDecodeBack (.ackRsp 0x07 0x5084) .seek _ rfl rfl
  · exact wireInstructionsDecodeBack (.mtUnrecognised 0x02 0x05 0xA2) .seek _ rfl rfl
  · exact wireInstructionsDecodeBack (.ctlUnrecognised 0x13) .seek _ rfl rfl

/-! ### What the decoder can read (R80 to R93) -/

/-- Bytes read as an instruction at a position: it is well formed, and the bytes taken are its encoding. -/
def TakenAs (pos : RxState) (s : List Byte) (i : Instr) (rest : List Byte) : Prop :=
  WellFormed i = true ∧ ∃ bytes, encode i = some (pos, bytes) ∧ s = bytes ++ rest

theorem decodeChecksum_ok {make : Word → Instr} {s rest : List Byte} {i : Instr}
    (h : decodeChecksum make s = .ok i rest) : ∃ ck, i = make ck ∧ s = littleEndian ck ++ rest := by
  match s, h with
  | low :: high :: rest, rfl =>
    exact ⟨word high low, rfl, by rw [littleEndian_eq, loByte_word, hiByte_word]; rfl⟩

/-- Where two bytes and more are left behind the first `size`, those are all there. -/
theorem length_take_of_drop {size : Nat} {s rest : List Byte} {ck : Word}
    (h : s.drop size = littleEndian ck ++ rest) : (s.take size).length = size := by
  have htail : (s.drop size).length = s.length - size := List.length_drop
  rw [h, List.length_append, littleEndian_length] at htail
  rw [List.length_take]
  omega

theorem decodeRegion_ok {make : List Byte → Word → Instr} {size : Nat} {s rest : List Byte} {i : Instr}
    (h : decodeRegion make size s = .ok i rest) :
    ∃ region ck, region.length = size ∧ i = make region ck ∧ s = region ++ (littleEndian ck ++ rest) := by
  obtain ⟨ck, hi, hdrop⟩ := decodeChecksum_ok h
  exact ⟨s.take size, ck, length_take_of_drop hdrop, hi, by rw [← hdrop, List.take_append_drop]⟩

/-- A candidate from its length field on is one of the two forms of R81 and R82. -/
theorem decodeSof_ok {mtype seq : Byte} {s rest : List Byte} {i : Instr}
    (h : decodeSof mtype seq s = .ok i rest) :
    ∃ region ck,
      (shortRegion region = true ∧ i = sofShortInstr mtype seq region ck ∧
        s = BitVec.ofNat 8 region.length :: (region ++ (littleEndian ck ++ rest))) ∨
      (extRegion region = true ∧ i = sofExtInstr mtype seq region ck ∧
        s = 0x82#8 :: (bigEndian (BitVec.ofNat 16 region.length) ++ (region ++ (littleEndian ck ++ rest)))) := by
  cases s with
  | nil => cases h
  | cons len0 s =>
    by_cases hesc : len0 = 0x82#8
    · subst hesc
      match s, h with
      | hi :: lo :: s, h =>
        obtain ⟨region, ck, hlen, rfl, rfl⟩ := decodeRegion_ok h
        refine ⟨region, ck, .inr ⟨(extRegion_iff region).2 ?_, rfl, ?_⟩⟩
        · have hbound := (word hi lo).isLt
          omega
        · rw [hlen, BitVec.ofNat_toNat, BitVec.setWidth_eq, bigEndian, hiByte_word, loByte_word]
          rfl
    · rw [decodeSof_length mtype seq hesc] at h
      obtain ⟨region, ck, hlen, rfl, rfl⟩ := decodeRegion_ok h
      have hfield : BitVec.ofNat 8 region.length = len0 := by
        rw [hlen, BitVec.ofNat_toNat, BitVec.setWidth_eq]
      refine ⟨region, ck, .inl ⟨(shortRegion_iff region).2 ⟨?_, ?_⟩, rfl, ?_⟩⟩
      · have hbound := len0.isLt
        omega
      · rwa [hfield]
      · rw [hfield]

/-! The rows that the decoder picks by the message type: their constraint and their bytes. -/

theorem takenAs_sofShort {mtype : Byte} (hm : isMessageType mtype = true) (seq : Byte) {region : List Byte}
    (h : shortRegion region = true) (ck : Word) (rest : List Byte) :
    TakenAs .seek (sofShortBytes mtype seq region ck ++ rest) (sofShortInstr mtype seq region ck) rest := by
  rcases (isMessageType_iff mtype).1 hm with rfl | rfl | rfl <;> exact ⟨h, _, rfl, rfl⟩

theorem takenAs_sofExt {mtype : Byte} (hm : isMessageType mtype = true) (seq : Byte) {region : List Byte}
    (h : extRegion region = true) (ck : Word) (rest : List Byte) :
    TakenAs .seek (sofExtBytes mtype seq region ck ++ rest) (sofExtInstr mtype seq region ck) rest := by
  rcases (isMessageType_iff mtype).1 hm with rfl | rfl | rfl <;> exact ⟨h, _, rfl, rfl⟩

theorem takenAs_eot {mtype : Byte} (hm : isMessageType mtype = true) (seq : Byte) (ck : Word)
    (rest : List Byte) :
    TakenAs .seek (pairFrameBytes 0x04#8 mtype seq ck ++ rest) (eotInstr mtype seq ck) rest := by
  rcases (isMessageType_iff mtype).1 hm with rfl | rfl | rfl <;> exact ⟨rfl, _, rfl, rfl⟩

theorem takenAs_ack {mtype : Byte} (hm : isMessageType mtype = true) (seq : Byte) (ck : Word)
    (rest : List Byte) :
    TakenAs .seek (pairFrameBytes 0x06#8 mtype seq ck ++ rest) (ackInstr mtype seq ck) rest := by
  rcases (isMessageType_iff mtype).1 hm with rfl | rfl | rfl <;> exact ⟨rfl, _, rfl, rfl⟩

/-- What follows a control byte is read as a candidate of that category, or as an unrecognised type. -/
theorem takenAs_of_decodeHeader {ctl : Byte} (hc : isControl ctl = true) {s rest : List Byte} {i : Instr}
    (h : decodeHeader ctl s = .ok i rest) : TakenAs .seek (ctl :: s) i rest := by
  match s, h with
  | seq :: mtype :: s, h =>
    cases hm : isMessageType mtype with
    | false =>
      simp only [decodeHeader, hm, Bool.false_eq_true, if_false] at h
      cases h
      exact ⟨(wellFormed_mtUnrecognised_iff ctl seq mtype).2 ⟨hc, hm⟩, _, rfl, rfl⟩
    | true =>
      simp only [decodeHeader, hm, if_true] at h
      rcases (isControl_iff ctl).1 hc with rfl | rfl | rfl
      · obtain ⟨region, ck, ⟨hr, rfl, rfl⟩ | ⟨hr, rfl, rfl⟩⟩ := decodeSof_ok h
        · have ht := takenAs_sofShort hm seq hr ck rest
          rwa [sofShortBytes, List.cons_append, List.cons_append, List.cons_append, List.cons_append,
            List.append_assoc] at ht
        · have ht := takenAs_sofExt hm seq hr ck rest
          rwa [sofExtBytes, List.cons_append, List.cons_append, List.cons_append, List.cons_append,
            List.append_assoc, List.append_assoc] at ht
      · obtain ⟨ck, rfl, rfl⟩ := decodeChecksum_ok h
        exact takenAs_eot hm seq ck rest
      · obtain ⟨ck, rfl, rfl⟩ := decodeChecksum_ok h
        exact takenAs_ack hm seq ck rest

theorem takenAs_of_decodeFrame {s rest : List Byte} {i : Instr} (h : decodeFrame s = .ok i rest) :
    TakenAs .seek s i rest := by
  cases s with
  | nil => cases h
  | cons b s =>
    cases hb : isControl b with
    | true => exact takenAs_of_decodeHeader hb ((decodeFrame_control hb s).symm.trans h)
    | false =>
      rw [decodeFrame_noise hb] at h
      cases h
      exact ⟨(wellFormed_ctlUnrecognised_iff b).2 hb, _, rfl, rfl⟩

theorem takenAs_controlInstr (b : Byte) (rest : List Byte) :
    TakenAs .seek (b :: rest) (controlInstr b) rest := by
  cases hb : isControl b with
  | true => rcases (isControl_iff b).1 hb with rfl | rfl | rfl <;> exact ⟨rfl, _, rfl, rfl⟩
  | false =>
    obtain ⟨hsof, heot, hack⟩ := (isControl_eq_false_iff b).1 hb
    have hrow : controlInstr b = .ctlUnrecognised b := by
      rw [controlInstr, params_ctlSof, if_neg hsof, params_ctlEot, if_neg heot, params_ctlAck, if_neg hack]
    rw [hrow]
    exact ⟨(wellFormed_ctlUnrecognised_iff b).2 hb, _, rfl, rfl⟩

theorem takenAs_typeInstr (b : Byte) (rest : List Byte) :
    TakenAs .hdrType (b :: rest) (typeInstr b) rest := by
  cases hb : isMessageType b with
  | true => rcases (isMessageType_iff b).1 hb with rfl | rfl | rfl <;> exact ⟨rfl, _, rfl, rfl⟩
  | false =>
    rw [typeInstr_of_unrecognised hb]
    exact ⟨rfl, [b], (encode_rxHdrType_iff b _ _).2 ⟨hb, rfl, rfl⟩, rfl⟩

theorem takenAs_lengthInstr (b : Byte) (rest : List Byte) :
    TakenAs .len0 (b :: rest) (lengthInstr b) rest := by
  by_cases hb : b = 0x82#8
  · subst hb
    exact ⟨rfl, _, rfl, rfl⟩
  · rw [lengthInstr_of_length hb]
    exact ⟨rfl, [b], (encode_rxLen0_iff b _ _).2 ⟨hb, rfl, rfl⟩, rfl⟩

/-- A single byte, in each state of the reader. -/
theorem takenAs_of_decodeByte {pos : RxState} {b : Byte} {s rest : List Byte} {i : Instr}
    (h : decodeByte pos b s = .ok i rest) : TakenAs pos (b :: s) i rest := by
  cases pos with
  | closed | fault => cases h
  | seek => cases h; exact takenAs_controlInstr b s
  | hdrType => cases h; exact takenAs_typeInstr b s
  | len0 => cases h; exact takenAs_lengthInstr b s
  | hdrSeq | lenHi | lenLo | body | ckLo | ckHi => cases h; exact ⟨rfl, _, rfl, rfl⟩

/-- Settles O3: at a boundary a whole candidate, else the first byte; elsewhere one byte. -/
theorem decodedCandidatesAreTheirBytes : Obligations.DecodedCandidatesAreTheirBytes := by
  intro pos s i rest h
  cases s with
  | nil => cases h
  | cons b s =>
    by_cases hpos : pos = .seek
    · subst hpos
      rw [decode, if_pos rfl, decodeBoundary] at h
      cases hframe : decodeFrame (b :: s) with
      | ok j rest' =>
        rw [hframe] at h
        cases h
        exact takenAs_of_decodeFrame hframe
      | reject r =>
        rw [hframe] at h
        exact takenAs_of_decodeByte h
    · rw [decode, if_neg hpos] at h
      exact takenAs_of_decodeByte h

end Sys2Proof.Machine
end

section
/-! The instructions by what they do: the bytes of the link's events, the results that are only handed to a
caller, and the eight others. The whole-machine rules are proved kind by kind. -/

namespace Sys2Proof.Machine

/-! ### The kinds of instruction -/

/-- The bytes that the reader consumes in an event of the link: the encoding of a wire row, else the bytes the
event names (R100, R150). -/
def linkBytes : Instr → Option (List Byte)
  | .rxSeek b => some [b]
  | .rxHdrType b => some [b]
  | .rxLen0 b => some [b]
  | .rxString s => some s
  | i => (encode i).map Prod.snd

/-- What the operations that neither read nor write the block hand to their caller (R110 to R112, R120, R121,
R133). -/
def callerResult : Instr → Option Result
  | .ckSeed => some (.value params.ckSeed)
  | .cksum s => some (.value (cksum s))
  | .cksumBytes s => some (.bytes (cksumBytes s))
  | .lenEnc n => some (bytesOrTooLarge (lenEnc n))
  | .lenDec s => some (lengthResult (lenDec s))
  | .encAck f => some (ackResult f)
  | .encAckPair seq mtype => some (ackResult [0x00, seq, mtype])
  | .ackOf f => some (ackResult [0x00, f.sequenceId, f.messageType])
  | _ => none

/-- Every instruction is an event of the link, a result for a caller, or one of eight. -/
theorem instr_kinds {motive : Instr → Prop}
    (link : ∀ i bytes, linkBytes i = some bytes → motive i)
    (caller : ∀ i r, callerResult i = some r → motive i)
    (nextSeq : motive .nextSeq)
    (encCmd : ∀ messageId payload, motive (.encCmd messageId payload))
    (pop : motive .pop)
    (drain : motive .drain)
    (openReader : motive .openReader)
    (closeReader : motive .closeReader)
    (sentinel : motive .sentinel)
    (reset : motive .reset) (i : Instr) : motive i := by
  cases i with
  | ckSeed | cksum _ | cksumBytes _ | lenEnc _ | lenDec _ | encAck _ | encAckPair _ _ | ackOf _ =>
    exact caller _ _ rfl
  | nextSeq => exact nextSeq
  | encCmd messageId payload => exact encCmd messageId payload
  | pop => exact pop
  | drain => exact drain
  | openReader => exact openReader
  | closeReader => exact closeReader
  | sentinel => exact sentinel
  | reset => exact reset
  | _ => exact link _ _ rfl

/-! ### Results for a caller -/

theorem exec_caller {i : Instr} {r : Result} (h : callerResult i = some r) (s : State) :
    exec i s = .next (give r s) := by
  cases i with
  | ckSeed | cksum _ | cksumBytes _ | lenEnc _ | lenDec _ | encAck _ | encAckPair _ _ | ackOf _ =>
    cases h
    rfl
  | _ => cases h

theorem enabled_caller {i : Instr} {r : Result} (h : callerResult i = some r) (s : State) :
    enabled i s = true := by
  cases i with
  | ckSeed | cksum _ | cksumBytes _ | lenEnc _ | lenDec _ | encAck _ | encAckPair _ _ | ackOf _ => rfl
  | _ => cases h

/-! ### Events of the link -/

theorem deliver_single {s : State} (h : rxEnabled s = true) (b : Byte) : deliver [b] s = rxByte b s := by
  rw [deliver, h, if_pos rfl]
  cases rxByte b s <;> rfl

/-- A row of `RX_BYTE` is enabled in its own state only, where the reader takes a byte (R152). -/
theorem enabled_byteRow {b : Byte} {x : RxState} {i : Instr} (hi : byteRow b x = some i) {s : State}
    (h : enabled i s = true) : s.rxState = x ∧ rxEnabled s = true := by
  cases x with
  | closed | fault => cases hi
  | seek =>
    cases hi
    exact ⟨((atBoundary_iff s).1 h).1, rxEnabled_of_atBoundary h⟩
  | hdrSeq | hdrType | len0 | lenHi | lenLo | body | ckLo | ckHi =>
    cases hi
    have hs := eq_of_beq h
    exact ⟨hs, by rw [rxEnabled, hs]⟩

/-- A row of `RX_BYTE` that is not enabled does not happen (R13). -/
theorem exec_byteRow_waits {b : Byte} {x : RxState} {i : Instr} (hi : byteRow b x = some i) {s : State}
    (h : enabled i s = false) : exec i s = .next s := by
  cases x with
  | closed | fault => cases hi
  | seek | hdrSeq | hdrType | len0 | lenHi | lenLo | body | ckLo | ckHi =>
    cases hi
    simp only [enabled] at h
    simp only [exec, execRxSeek, execRxHdrSeq, execRxHdrType, execRxLen0, execRxLenHi, execRxLenLo,
      execRxBody, execRxCkLo, execRxCkHi, h, whenEnabled_false]

/-- A row of `RX_BYTE` is the delivery of its byte. -/
theorem exec_byteRow_deliver {b : Byte} {x : RxState} {i : Instr} (hi : byteRow b x = some i) (s : State) :
    exec i s = whenEnabled (enabled i s) (deliver [b]) s := by
  cases he : enabled i s with
  | false => rw [exec_byteRow_waits hi he, whenEnabled_false]
  | true =>
    obtain ⟨hs, hr⟩ := enabled_byteRow hi he
    rw [exec_byteRow hs hi, whenEnabled_true, deliver_single hr]

/-- Every event of the link is the reader consuming its bytes, where it is enabled (R13, R100, R150). -/
theorem exec_link {i : Instr} {bytes : List Byte} (h : linkBytes i = some bytes) (s : State) :
    exec i s = whenEnabled (enabled i s) (deliver bytes) s := by
  cases i with
  | sofShortCmd _ _ _ | sofShortRsp _ _ _ | sofShortNtf _ _ _ | sofExtCmd _ _ _ | sofExtRsp _ _ _
  | sofExtNtf _ _ _ | eotCmd _ _ | eotRsp _ _ | eotNtf _ _ | ackCmd _ _ | ackRsp _ _ | ackNtf _ _
  | ctlUnrecognised _ | mtUnrecognised _ _ _ | rxString _ =>
    cases h
    rfl
  | ctlSof | ctlEot | ctlAck | rxSeek b =>
    cases h
    exact exec_byteRow_deliver (x := .seek) rfl s
  | mtCommand | mtResponse | mtNotification | rxHdrType b =>
    cases h
    exact exec_byteRow_deliver (x := .hdrType) rfl s
  | lenEsc | rxLen0 b =>
    cases h
    exact exec_byteRow_deliver (x := .len0) rfl s
  | rxHdrSeq b => cases h; exact exec_byteRow_deliver (x := .hdrSeq) rfl s
  | rxLenHi b => cases h; exact exec_byteRow_deliver (x := .lenHi) rfl s
  | rxLenLo b => cases h; exact exec_byteRow_deliver (x := .lenLo) rfl s
  | rxBody b => cases h; exact exec_byteRow_deliver (x := .body) rfl s
  | rxCkLo b => cases h; exact exec_byteRow_deliver (x := .ckLo) rfl s
  | rxCkHi b => cases h; exact exec_byteRow_deliver (x := .ckHi) rfl s
  | _ => cases h

/-- Everything an event of the link can do: the delivery of its bytes, or nothing. -/
theorem exec_link_cases {i : Instr} {bytes : List Byte} (h : linkBytes i = some bytes) (s : State) :
    exec i s = deliver bytes s ∨ exec i s = .next s := by
  rw [exec_link h]
  rcases whenEnabled_cases (enabled i s) (deliver bytes) s with ⟨_, he⟩ | ⟨_, he⟩
  · exact .inl he
  · exact .inr he

/-- Settles O45: an event of the link, `POP`, `OPEN` and `SENTINEL` are guarded; the others are always
enabled. -/
theorem eventsNotEnabledDoNotHappen : Obligations.EventsNotEnabledDoNotHappen := by
  intro i s he
  cases i using instr_kinds with
  | link i bytes h => rw [exec_link h, he, whenEnabled_false]
  | caller i r h => cases (enabled_caller h s).symm.trans he
  | pop => rw [exec_pop, show (!s.queue.isEmpty) = false from he, whenEnabled_false]
  | openReader => rw [exec_openReader, show (s.rxState == .closed) = false from he, whenEnabled_false]
  | sentinel => rw [exec_sentinel, show sentinelEnabled s = false from he, whenEnabled_false]
  | nextSeq | encCmd messageId payload | drain | closeReader | reset => cases he

end Sys2Proof.Machine
end

section
/-! What the receive side keeps and what it never looks at: the fault (R23), the order of the queue (R63, R195),
the sequence counter (R67) and, inside a frame, the open flag (R152). -/

namespace Sys2Proof.Machine

/-! ### What one byte event can change -/

/-- Only working registers, reader state, buffer and event code may differ. -/
structure Quiet (s t : State) : Prop where
  seqCtr : t.seqCtr = s.seqCtr
  openFlag : t.openFlag = s.openFlag
  faultOverflow : t.faultOverflow = s.faultOverflow
  queue : t.queue = s.queue
  eventLog : t.eventLog = s.eventLog
  result : t.result = s.result
  delivered : t.delivered = s.delivered
  epoch : t.epoch = s.epoch
  inbox : t.inbox = s.inbox

theorem Quiet.refl (s : State) : Quiet s s := ⟨rfl, rfl, rfl, rfl, rfl, rfl, rfl, rfl, rfl⟩

/-- Any update of working registers, reader state, buffer and event code is quiet. -/
theorem quiet_registers (s : State) {x : RxState} {ctl seq mtype cklo : Byte} {len cnt acc : Word} {par : Bool}
    {buf : Memory} {event : EventCode} :
    Quiet s { s with
      rxState := x, rCtl := ctl, rSeq := seq, rMtype := mtype, rLen := len, rCnt := cnt, rAcc := acc, rPar := par,
      rCklo := cklo, buf := buf, rxEvent := event } :=
  ⟨rfl, rfl, rfl, rfl, rfl, rfl, rfl, rfl, rfl⟩

theorem Quiet.trans {s t u : State} (h : Quiet s t) (h' : Quiet t u) : Quiet s u where
  seqCtr := h'.seqCtr.trans h.seqCtr
  openFlag := h'.openFlag.trans h.openFlag
  faultOverflow := h'.faultOverflow.trans h.faultOverflow
  queue := h'.queue.trans h.queue
  eventLog := h'.eventLog.trans h.eventLog
  result := h'.result.trans h.result
  delivered := h'.delivered.trans h.delivered
  epoch := h'.epoch.trans h.epoch
  inbox := h'.inbox.trans h.inbox

/-- Everything a byte event can show outside the working registers: nothing, the end of a candidate with a bad
type or a bad checksum, or the end of a matching one. -/
theorem rxByte_next_cases {b : Byte} {s t : State} (h : rxByte b s = .next t) :
    Quiet s t ∨
      (s.rxState = .hdrType ∧ t = present .badMtype (goTo .seek (accumulate b { s with rMtype := b }))) ∨
      (s.rxState = .ckHi ∧ t = present .badCksum (goTo .seek s)) ∨
      (s.rxState = .ckHi ∧ word b s.rCklo = s.rAcc ∧ t = emitCandidate s) := by
  cases hs : s.rxState with
  | closed | fault =>
    rw [rxByte_waits (by rw [rxEnabled, hs])] at h
    cases h
    exact .inl (.refl s)
  | seek =>
    cases ho : s.openFlag with
    | false =>
      rw [rxByte_waits (by rw [rxEnabled, hs, ho])] at h
      cases h
      exact .inl (.refl s)
    | true =>
      rw [rxByte_seek hs ho] at h
      cases h
      left
      split <;> exact quiet_registers s
  | hdrSeq =>
    rw [rxByte_hdrSeq hs] at h
    cases h
    exact .inl (quiet_registers s)
  | hdrType =>
    rw [rxByte_hdrType hs] at h
    cases h
    split
    · exact .inl (quiet_registers s)
    · exact .inr (.inl ⟨rfl, rfl⟩)
  | len0 =>
    rw [rxByte_len0 hs] at h
    cases h
    left
    split <;> exact quiet_registers s
  | lenHi =>
    rw [rxByte_lenHi hs] at h
    cases h
    exact .inl (quiet_registers s)
  | lenLo =>
    rw [rxByte_lenLo hs] at h
    cases h
    exact .inl (quiet_registers s)
  | body =>
    by_cases hcnt : s.rCnt.toNat < 65535
    · rw [rxByte_body hs hcnt] at h
      cases h
      exact .inl (quiet_registers s)
    · rw [rxByte_body_outOfRange hs (Nat.not_lt.1 hcnt)] at h
      cases h
  | ckLo =>
    rw [rxByte_ckLo hs] at h
    cases h
    exact .inl (quiet_registers s)
  | ckHi =>
    rw [rxByte_ckHi hs] at h
    cases h
    split
    · next hck => exact .inr (.inr (.inr ⟨rfl, hck, rfl⟩))
    · exact .inr (.inr (.inl ⟨rfl, rfl⟩))

/-! ### What any run of bytes keeps -/

/-- What the receive side leaves alone, and what it may only add to: entries at the end of the queue, and the
fault, which it never clears. -/
structure ReaderKeeps (s t : State) : Prop where
  seqCtr : t.seqCtr = s.seqCtr
  openFlag : t.openFlag = s.openFlag
  delivered : t.delivered = s.delivered
  queue : ∃ added, t.queue = s.queue ++ added
  flag : s.faultOverflow = true → t.faultOverflow = true
  fault : s.rxState = .fault → t.rxState = .fault

theorem ReaderKeeps.refl (s : State) : ReaderKeeps s s :=
  ⟨rfl, rfl, rfl, ⟨[], (List.append_nil _).symm⟩, id, id⟩

theorem ReaderKeeps.trans {s t u : State} (h : ReaderKeeps s t) (h' : ReaderKeeps t u) : ReaderKeeps s u where
  seqCtr := h'.seqCtr.trans h.seqCtr
  openFlag := h'.openFlag.trans h.openFlag
  delivered := h'.delivered.trans h.delivered
  queue := by
    obtain ⟨added, hadded⟩ := h.queue
    obtain ⟨added', hadded'⟩ := h'.queue
    exact ⟨added ++ added', by rw [hadded', hadded, List.append_assoc]⟩
  flag := h'.flag ∘ h.flag
  fault := h'.fault ∘ h.fault

/-- Outside FAULT it is enough that nothing is pushed and the flag stays. -/
theorem ReaderKeeps.of_sameQueue {s t : State} (hs : s.rxState ≠ .fault) (hctr : t.seqCtr = s.seqCtr)
    (hopen : t.openFlag = s.openFlag) (hdelivered : t.delivered = s.delivered) (hqueue : t.queue = s.queue)
    (hflag : t.faultOverflow = s.faultOverflow) : ReaderKeeps s t :=
  ⟨hctr, hopen, hdelivered, ⟨[], by rw [hqueue, List.append_nil]⟩, hflag.trans, fun h => absurd h hs⟩

theorem readerKeeps_emitCandidate {s : State} (hs : s.rxState ≠ .fault) : ReaderKeeps s (emitCandidate s) := by
  rcases emitCandidate_cases s with ⟨_, _, he⟩ | ⟨_, _, he⟩ | ⟨_, _, he⟩ <;> rw [he]
  · exact .of_sameQueue hs rfl rfl rfl rfl rfl
  · exact ⟨rfl, rfl, rfl, ⟨[], (List.append_nil _).symm⟩, fun _ => rfl, fun _ => rfl⟩
  · exact ⟨rfl, rfl, rfl, ⟨_, rfl⟩, id, fun h => absurd h hs⟩

theorem rxByte_keeps {b : Byte} {s t : State} (h : rxByte b s = .next t) : ReaderKeeps s t := by
  by_cases hf : s.rxState = .fault
  · rw [rxByte_waits (by rw [rxEnabled, hf])] at h
    cases h
    exact .refl s
  · rcases rxByte_next_cases h with hq | ⟨_, rfl⟩ | ⟨_, rfl⟩ | ⟨_, _, rfl⟩
    · exact .of_sameQueue hf hq.seqCtr hq.openFlag hq.delivered hq.queue hq.faultOverflow
    · exact .of_sameQueue hf rfl rfl rfl rfl rfl
    · exact .of_sameQueue hf rfl rfl rfl rfl rfl
    · exact readerKeeps_emitCandidate hf

theorem deliver_keeps {bytes : List Byte} {s t : State} (h : deliver bytes s = .next t) : ReaderKeeps s t := by
  induction bytes generalizing s with
  | nil => cases h; exact .refl _
  | cons b rest ih =>
    cases hr : rxEnabled s with
    | true =>
      rw [deliver, hr, if_pos rfl] at h
      obtain ⟨u, hu, hrest⟩ := andThen_eq_next h
      exact (rxByte_keeps hu).trans (ih hrest)
    | false =>
      rw [deliver_waits hr] at h
      cases h
      exact ⟨rfl, rfl, rfl, ⟨[], (List.append_nil _).symm⟩, id, id⟩

theorem exec_link_keeps {i : Instr} {bytes : List Byte} (hi : linkBytes i = some bytes) {s t : State}
    (h : exec i s = .next t) : ReaderKeeps s t := by
  rcases exec_link_cases hi s with he | he <;> rw [he] at h
  · exact deliver_keeps h
  · cases h
    exact .refl s

/-! ### The events of the other agents -/

theorem execEncCmd_next_cases {messageId : Byte} {payload : List Byte} {s t : State}
    (h : exec (.encCmd messageId payload) s = .next t) :
    (∃ field, t = give (.bytes (frameBytes 0x02#8 (commandBody (nextSeqValue s) field messageId payload)))
      (advanceSeq s)) ∨
    t = give (.error .lengthTooLarge) s := by
  rw [exec_encCmd] at h
  rcases execEncCmd_cases messageId payload s with ⟨_, field, _, he⟩ | ⟨_, he⟩ <;> rw [he] at h <;> cases h
  · exact .inl ⟨field, rfl⟩
  · exact .inr rfl

theorem exec_pop_next_cases {s t : State} (h : exec .pop s = .next t) : t = popEntries 1 s ∨ t = s := by
  rw [exec_pop] at h
  rcases whenEnabled_cases (!s.queue.isEmpty) (fun s => .next (popEntries 1 s)) s with ⟨_, he⟩ | ⟨_, he⟩ <;>
    rw [he] at h <;> cases h
  · exact .inl rfl
  · exact .inr rfl

theorem exec_openReader_next_cases {s t : State} (h : exec .openReader s = .next t) :
    (s.rxState = .closed ∧ t = { s with openFlag := true, rxState := .seek }) ∨ t = s := by
  by_cases hc : s.rxState = .closed
  · rw [(openStartsTheReader s).1 hc] at h
    cases h
    exact .inl ⟨hc, rfl⟩
  · rw [(openStartsTheReader s).2 hc] at h
    cases h
    exact .inr rfl

theorem exec_sentinel_next_cases {s t : State} (h : exec .sentinel s = .next t) :
    (s.rxState = .seek ∧ s.queue.length ≠ 100 ∧
      t = present .sentinel (goTo .closed { s with queue := s.queue ++ [.sentinel] })) ∨
    (s.rxState = .seek ∧ s.queue.length = 100 ∧ t = raiseOverflow s) ∨ t = s := by
  rw [exec_sentinel] at h
  rcases whenEnabled_cases (sentinelEnabled s) _ s with ⟨hen, he⟩ | ⟨_, he⟩
  · have hs := ((sentinelEnabled_iff s).1 hen).1
    rw [he] at h
    cases h
    rcases push_cases .sentinel (fun s => present .sentinel (goTo .closed s)) s with ⟨hq, hp⟩ | ⟨hq, hp⟩
    · exact .inl ⟨hs, hq, hp⟩
    · exact .inr (.inl ⟨hs, hq, hp⟩)
  · rw [he] at h
    cases h
    exact .inr (.inr rfl)

/-! ### The fault and the queue -/

/-- Settles O46: the reader never clears the fault, `OPEN` and `SENTINEL` start from other states, and the other
events look at neither. -/
theorem onlyResetLeavesTheFault : Obligations.OnlyResetLeavesTheFault := by
  intro i s t h hreset
  cases i using instr_kinds with
  | link i bytes hi => exact ⟨(exec_link_keeps hi h).flag, (exec_link_keeps hi h).fault⟩
  | caller i r hi => rw [exec_caller hi] at h; cases h; exact ⟨id, id⟩
  | nextSeq => rw [exec_nextSeq] at h; cases h; exact ⟨id, id⟩
  | encCmd messageId payload =>
    obtain ⟨field, rfl⟩ | rfl := execEncCmd_next_cases h <;> exact ⟨id, id⟩
  | pop => obtain rfl | rfl := exec_pop_next_cases h <;> exact ⟨id, id⟩
  | drain => rw [exec_drain] at h; cases h; exact ⟨id, id⟩
  | openReader =>
    obtain ⟨hc, rfl⟩ | rfl := exec_openReader_next_cases h
    · exact ⟨id, fun hf => by rw [hc] at hf; cases hf⟩
    · exact ⟨id, id⟩
  | closeReader => rw [closeOnlyClearsTheFlag] at h; cases h; exact ⟨id, id⟩
  | sentinel =>
    obtain ⟨hs, _, rfl⟩ | ⟨_, _, rfl⟩ | rfl := exec_sentinel_next_cases h
    · exact ⟨id, fun hf => by rw [hs] at hf; cases hf⟩
    · exact ⟨fun _ => rfl, fun _ => rfl⟩
    · exact ⟨id, id⟩
  | reset => exact absurd rfl hreset

/-- What has been delivered and what is queued, oldest first (R63). -/
def history (s : State) : List QueueEntry := s.delivered.reverse ++ s.queue

/-- Popping moves entries from the queue to the record and changes nothing of their order. -/
theorem history_popEntries (n : Nat) (s : State) : history (popEntries n s) = history s := by
  simp only [history, popEntries_delivered, popEntries_queue, List.reverse_append, List.reverse_reverse,
    List.append_assoc, List.take_append_drop]

theorem history_grows {s t : State} (hd : t.delivered = s.delivered) {added : List QueueEntry}
    (hq : t.queue = s.queue ++ added) : history t = history s ++ added := by
  rw [history, history, hd, hq, List.append_assoc]

/-- Settles O47: popping keeps the history, a push adds one entry at its end, and no other event touches it. -/
theorem queueIsFirstInFirstOut : Obligations.QueueIsFirstInFirstOut := by
  intro i s t h hreset
  change ∃ added, history t = history s ++ added
  have hsame : history s = history s ++ [] := (List.append_nil _).symm
  cases i using instr_kinds with
  | link i bytes hi =>
    have hkeeps := exec_link_keeps hi h
    obtain ⟨added, hadded⟩ := hkeeps.queue
    exact ⟨added, history_grows hkeeps.delivered hadded⟩
  | caller i r hi => rw [exec_caller hi] at h; cases h; exact ⟨[], hsame⟩
  | nextSeq => rw [exec_nextSeq] at h; cases h; exact ⟨[], hsame⟩
  | encCmd messageId payload =>
    obtain ⟨field, rfl⟩ | rfl := execEncCmd_next_cases h <;> exact ⟨[], hsame⟩
  | pop =>
    obtain rfl | rfl := exec_pop_next_cases h
    · exact ⟨[], (history_popEntries 1 s).trans hsame⟩
    · exact ⟨[], hsame⟩
  | drain => rw [exec_drain] at h; cases h; exact ⟨[], (history_popEntries _ s).trans hsame⟩
  | openReader => obtain ⟨_, rfl⟩ | rfl := exec_openReader_next_cases h <;> exact ⟨[], hsame⟩
  | closeReader => rw [closeOnlyClearsTheFlag] at h; cases h; exact ⟨[], hsame⟩
  | sentinel =>
    obtain ⟨_, _, ht⟩ | ⟨_, _, rfl⟩ | rfl := exec_sentinel_next_cases h
    · exact ⟨[.sentinel], history_grows (by rw [ht]; rfl) (by rw [ht]; rfl)⟩
    · exact ⟨[], hsame⟩
    · exact ⟨[], hsame⟩
  | reset => exact absurd rfl hreset

/-! ### What the reader never looks at -/

/-- A state with another sequence counter and another open flag. -/
def withCtrFlag (ctr : Byte) (flag : Bool) (s : State) : State := { s with seqCtr := ctr, openFlag := flag }

/-- A state with another sequence counter. -/
def withCtr (ctr : Byte) (s : State) : State := { s with seqCtr := ctr }

theorem withCtrFlag_self (ctr : Byte) (s : State) : withCtrFlag ctr s.openFlag s = withCtr ctr s := rfl

/-- An update of the next state of an outcome. -/
def mapNext (f : State → State) (o : Out) : Out := andThen o fun t => .next (f t)

@[simp] theorem mapNext_next (f : State → State) (s : State) : mapNext f (.next s) = .next (f s) := rfl
@[simp] theorem mapNext_fault (f : State → State) (r : Fault) : mapNext f (.fault r) = .fault r := rfl

theorem push_withCtrFlag (ctr : Byte) (flag : Bool) (e : QueueEntry) {goOn : State → State}
    (hgo : ∀ s, goOn (withCtrFlag ctr flag s) = withCtrFlag ctr flag (goOn s)) (s : State) :
    push e goOn (withCtrFlag ctr flag s) = withCtrFlag ctr flag (push e goOn s) := by
  rcases push_cases e goOn s with ⟨hq, hp⟩ | ⟨hq, hp⟩ <;>
    rcases push_cases e goOn (withCtrFlag ctr flag s) with ⟨hq', hp'⟩ | ⟨hq', hp'⟩
  · rw [hp, hp', ← hgo]
    rfl
  · exact absurd hq' hq
  · exact absurd hq hq'
  · rw [hp, hp']
    rfl

theorem emitCandidate_withCtrFlag (ctr : Byte) (flag : Bool) (s : State) :
    emitCandidate (withCtrFlag ctr flag s) = withCtrFlag ctr flag (emitCandidate s) := by
  by_cases hz : s.rCtl = params.ctlSof ∧ s.rLen = 0#16
  · have hz' : (withCtrFlag ctr flag s).rCtl = params.ctlSof ∧ (withCtrFlag ctr flag s).rLen = 0#16 := hz
    rw [emitCandidate, emitCandidate, if_pos hz, if_pos hz']
    rfl
  · have hz' : ¬((withCtrFlag ctr flag s).rCtl = params.ctlSof ∧ (withCtrFlag ctr flag s).rLen = 0#16) := hz
    rw [emitCandidate, emitCandidate, if_neg hz, if_neg hz',
      push_withCtrFlag ctr flag _ (goOn := fun s => present .emit (goTo .seek s)) fun _ => rfl]
    rfl

theorem rxEnabled_withCtrFlag (ctr : Byte) {flag : Bool} {s : State}
    (hflag : s.rxState = .seek → flag = s.openFlag) : rxEnabled (withCtrFlag ctr flag s) = rxEnabled s := by
  by_cases hs : s.rxState = .seek
  · obtain rfl := hflag hs
    rfl
  · rw [Bool.eq_iff_iff, rxEnabled_iff, rxEnabled_iff]
    exact and_congr_right fun _ => and_congr_right fun _ => ⟨fun _ h => absurd h hs, fun _ h => absurd h hs⟩

/-- A byte event looks at the counter never and at the open flag in SEEK only. -/
theorem rxByte_withCtrFlag (ctr : Byte) {flag : Bool} (b : Byte) {s : State}
    (hflag : s.rxState = .seek → flag = s.openFlag) :
    rxByte b (withCtrFlag ctr flag s) = mapNext (withCtrFlag ctr flag) (rxByte b s) := by
  have hstate {x : RxState} (h : s.rxState = x) : (withCtrFlag ctr flag s).rxState = x := h
  have hen := rxEnabled_withCtrFlag ctr hflag
  cases hr : rxEnabled s with
  | false => rw [rxByte_waits hr, rxByte_waits (hen.trans hr), mapNext_next]
  | true =>
    obtain ⟨hclosed, hfault, hopen⟩ := (rxEnabled_iff s).1 hr
    cases hs : s.rxState with
    | closed => exact absurd hs hclosed
    | fault => exact absurd hs hfault
    | seek =>
      rw [rxByte_seek hs (hopen hs), rxByte_seek (hstate hs) ((hflag hs).trans (hopen hs)), mapNext_next]
      split <;> rfl
    | hdrSeq => rw [rxByte_hdrSeq hs, rxByte_hdrSeq (hstate hs)]; rfl
    | hdrType =>
      rw [rxByte_hdrType hs, rxByte_hdrType (hstate hs), mapNext_next]
      split <;> rfl
    | len0 =>
      rw [rxByte_len0 hs, rxByte_len0 (hstate hs), mapNext_next]
      split <;> rfl
    | lenHi => rw [rxByte_lenHi hs, rxByte_lenHi (hstate hs)]; rfl
    | lenLo => rw [rxByte_lenLo hs, rxByte_lenLo (hstate hs)]; rfl
    | body =>
      by_cases hcnt : s.rCnt.toNat < 65535
      · rw [rxByte_body hs hcnt, rxByte_body (hstate hs) hcnt]; rfl
      · rw [rxByte_body_outOfRange hs (Nat.not_lt.1 hcnt), rxByte_body_outOfRange (hstate hs) (Nat.not_lt.1 hcnt),
          mapNext_fault]
    | ckLo => rw [rxByte_ckLo hs, rxByte_ckLo (hstate hs)]; rfl
    | ckHi =>
      by_cases hck : word b s.rCklo = s.rAcc
      · have hck' : word b (withCtrFlag ctr flag s).rCklo = (withCtrFlag ctr flag s).rAcc := hck
        rw [rxByte_match hs hck, rxByte_match (hstate hs) hck', mapNext_next, emitCandidate_withCtrFlag]
      · have hck' : word b (withCtrFlag ctr flag s).rCklo ≠ (withCtrFlag ctr flag s).rAcc := hck
        rw [rxByte_mismatch hs hck, rxByte_mismatch (hstate hs) hck', mapNext_next]
        rfl

theorem deliver_withCtr (ctr : Byte) {bytes : List Byte} {s t : State} (h : deliver bytes s = .next t) :
    deliver bytes (withCtr ctr s) = .next (withCtr ctr t) := by
  induction bytes generalizing s with
  | nil => cases h; rfl
  | cons b rest ih =>
    cases hr : rxEnabled s with
    | true =>
      rw [deliver, hr, if_pos rfl] at h
      obtain ⟨u, hu, hrest⟩ := andThen_eq_next h
      have hbyte : rxByte b (withCtr ctr s) = .next (withCtr ctr u) := by
        rw [← withCtrFlag_self, rxByte_withCtrFlag ctr b fun _ => rfl, hu, mapNext_next,
          ← (rxByte_keeps hu).openFlag, withCtrFlag_self]
      rw [deliver_cons (show rxEnabled (withCtr ctr s) = true from hr) hbyte, ih hrest]
    | false =>
      rw [deliver_waits hr] at h
      cases h
      rw [deliver_waits (show rxEnabled (withCtr ctr s) = false from hr)]
      rfl

theorem enabled_withCtr (ctr : Byte) (i : Instr) (s : State) : enabled i (withCtr ctr s) = enabled i s := by
  cases i <;> rfl

theorem exec_link_withCtr (ctr : Byte) {i : Instr} {bytes : List Byte} (hi : linkBytes i = some bytes)
    {s t : State} (h : exec i s = .next t) : exec i (withCtr ctr s) = .next (withCtr ctr t) := by
  rw [exec_link hi] at h
  rw [exec_link hi, enabled_withCtr]
  cases he : enabled i s with
  | false => rw [he] at h; cases h; rfl
  | true => rw [he] at h; exact deliver_withCtr ctr h

theorem exec_sentinel_withCtr (ctr : Byte) {s t : State} (h : exec .sentinel s = .next t) :
    exec .sentinel (withCtr ctr s) = .next (withCtr ctr t) := by
  rw [exec_sentinel] at h ⊢
  cases he : sentinelEnabled s with
  | false =>
    rw [he] at h
    cases h
    rw [show sentinelEnabled (withCtr ctr s) = false from he]
    rfl
  | true =>
    rw [he] at h
    cases h
    rw [show sentinelEnabled (withCtr ctr s) = true from he, whenEnabled_true, ← withCtrFlag_self,
      push_withCtrFlag ctr _ _ (goOn := fun s => present .sentinel (goTo .closed s)) fun _ => rfl]
    rcases push_cases .sentinel (fun s => present .sentinel (goTo .closed s)) s with ⟨_, hp⟩ | ⟨_, hp⟩ <;>
      rw [hp] <;> rfl

/-- Settles O48: an event of the link by induction over its bytes, the others one by one. -/
theorem receiveSideIgnoresTheCounter : Obligations.ReceiveSideIgnoresTheCounter := by
  intro i s t c h hnext henc hreset
  change t.seqCtr = s.seqCtr ∧ exec i (withCtr c s) = .next (withCtr c t)
  cases i using instr_kinds with
  | link i bytes hi => exact ⟨(exec_link_keeps hi h).seqCtr, exec_link_withCtr c hi h⟩
  | caller i r hi => rw [exec_caller hi] at h ⊢; cases h; exact ⟨rfl, rfl⟩
  | nextSeq => exact absurd rfl hnext
  | encCmd messageId payload => exact absurd rfl (henc messageId payload)
  | pop =>
    rw [exec_pop] at h ⊢
    cases he : !s.queue.isEmpty <;> rw [he] at h <;> cases h <;>
      rw [show (!(withCtr c s).queue.isEmpty) = _ from he] <;> exact ⟨rfl, rfl⟩
  | drain => rw [exec_drain] at h ⊢; cases h; exact ⟨rfl, rfl⟩
  | openReader =>
    rw [exec_openReader] at h ⊢
    cases he : s.rxState == .closed <;> rw [he] at h <;> cases h <;>
      rw [show ((withCtr c s).rxState == .closed) = _ from he] <;> exact ⟨rfl, rfl⟩
  | closeReader => rw [closeOnlyClearsTheFlag] at h ⊢; cases h; exact ⟨rfl, rfl⟩
  | sentinel =>
    refine ⟨?_, exec_sentinel_withCtr c h⟩
    obtain ⟨_, _, rfl⟩ | ⟨_, _, rfl⟩ | rfl := exec_sentinel_next_cases h <;> rfl
  | reset => exact absurd rfl hreset

theorem exec_rxString (bytes : List Byte) (s : State) :
    exec (.rxString bytes) s = whenEnabled (rxEnabled s) (deliver bytes) s := rfl

theorem inFrame_rxEnabled {s : State} (h : inFrame s = true) : rxEnabled s = true ∧ s.rxState ≠ .seek := by
  cases hs : s.rxState <;> simp_all [inFrame, rxEnabled]

/-- Settles O49: inside a frame the reader is not in SEEK, the one state that looks at the flag. -/
theorem openFlagIsNotLookedAtInsideAFrame : Obligations.OpenFlagIsNotLookedAtInsideAFrame := by
  intro b s t flag hin h
  obtain ⟨hr, hseek⟩ := inFrame_rxEnabled hin
  have hr' : rxEnabled { s with openFlag := flag } = true :=
    (inFrame_rxEnabled (s := { s with openFlag := flag }) hin).1
  rw [exec_rxString, hr, whenEnabled_true, deliver_single hr] at h
  rw [exec_rxString, hr', whenEnabled_true, deliver_single hr']
  change rxByte b (withCtrFlag s.seqCtr flag s) = _
  rw [rxByte_withCtrFlag s.seqCtr b fun hs => absurd hs hseek, h, mapNext_next, ← (rxByte_keeps h).seqCtr]
  rfl

end Sys2Proof.Machine
end

section
/-! Proofs for the families `30_encoding.md` and `43_rx_reassembly.md`: whole candidates at a frame boundary (R80
to R84, R92, R93, R161 to R164). -/

namespace Sys2Proof.Machine

/-! ### Runs of bytes, one after the other -/

theorem rxByte_inbox {b : Byte} {s t : State} (h : rxByte b s = .next t) : t.inbox = s.inbox := by
  rcases rxByte_next_cases h with hq | ⟨_, rfl⟩ | ⟨_, rfl⟩ | ⟨_, _, rfl⟩
  · exact hq.inbox
  · rfl
  · rfl
  · rcases emitCandidate_cases s with ⟨_, _, he⟩ | ⟨_, _, he⟩ | ⟨_, _, he⟩ <;> rw [he] <;> rfl

/-- A run that gives no byte back to the link goes on with whatever stands behind it. -/
theorem deliver_append {front : List Byte} {s t : State} (h : deliver front s = .next t)
    (hin : t.inbox = s.inbox) (back : List Byte) : deliver (front ++ back) s = deliver back t := by
  induction front generalizing s with
  | nil => cases h; rfl
  | cons b rest ih =>
    cases hr : rxEnabled s with
    | true =>
      rw [deliver, hr, if_pos rfl] at h
      obtain ⟨u, hu, hrest⟩ := andThen_eq_next h
      rw [List.cons_append, deliver_cons hr hu, ih hrest (hin.trans (rxByte_inbox hu).symm)]
    | false =>
      rw [deliver_waits hr] at h
      cases h
      exact absurd hin (List.cons_ne_self _ _)

/-! ### Noise and unrecognised types (R92, R93) -/

/-- Noise consumed where the last code was `EV_NONE` changes nothing at all. -/
theorem deliver_noise {bytes : List Byte} {s : State} (hs : atBoundary s = true) (he : s.rxEvent = .none)
    (hb : ∀ b, b ∈ bytes → isControl b = false) : deliver bytes s = .next s := by
  have hsame : { s with rxEvent := .none } = s := by rw [← he]
  induction bytes with
  | nil => rfl
  | cons b rest ih =>
    have hbyte := rxByte_noise hs (hb b List.mem_cons_self)
    rw [hsame] at hbyte
    rw [deliver_cons (rxEnabled_of_atBoundary hs) hbyte, ih fun b hmem => hb b (List.mem_cons_of_mem _ hmem)]

/-- Settles O50: after the first byte the code is `EV_NONE`, and the others change nothing. -/
theorem noiseStringsLeaveNoTrace : Obligations.NoiseStringsLeaveNoTrace := by
  intro bytes s hne hseek hopen hbytes
  have hs : atBoundary s = true := (atBoundary_iff s).2 ⟨hseek, hopen⟩
  have hnoise (b : Byte) (hb : b ∈ bytes) : isControl b = false := (isControl_eq_false_iff b).2 (hbytes b hb)
  rw [exec_rxString, rxEnabled_of_atBoundary hs, whenEnabled_true]
  cases bytes with
  | nil => exact absurd rfl hne
  | cons b rest =>
    rw [deliver_cons (rxEnabled_of_atBoundary hs) (rxByte_noise hs (hnoise b List.mem_cons_self))]
    exact deliver_noise (s := { s with rxEvent := .none }) hs rfl
      fun b hmem => hnoise b (List.mem_cons_of_mem _ hmem)

/-- The state after a candidate abandoned for its type. -/
def afterBadType (ctl seq mtype : Byte) (s : State) : State :=
  { s with
    rCtl := ctl
    rSeq := seq
    rMtype := mtype
    rLen := 0
    rCnt := 0
    rAcc := 0x5725 ^^^ word seq mtype
    rPar := false
    rxEvent := .badMtype
    eventLog := .badMtype :: s.eventLog }

theorem deliver_badType {s : State} (hs : atBoundary s = true) {ctl mtype : Byte}
    (hc : isControl ctl = true) (hm : isMessageType mtype = false) (seq : Byte) :
    deliver [ctl, seq, mtype] s = .next (afterBadType ctl seq mtype s) := by
  obtain ⟨hseek, hopen⟩ := (atBoundary_iff s).1 hs
  have hacc : accStep (accStep 0x5725#16 false seq) true mtype = 0x5725#16 ^^^ word seq mtype := by
    rw [accStep_eq, accStep_eq, BitVec.xor_assoc, placed_pair]
  rw [deliver_cons (rxEnabled_of_atBoundary hs) (rxByte_seek hseek hopen ctl), hc, if_pos rfl,
    deliver_cons (by simp [rxEnabled]) (rxByte_hdrSeq (by simp) seq),
    deliver_cons (by simp [rxEnabled]) (rxByte_badType (by simp) hm), deliver_nil, afterBadType]
  simp [present_none, goTo, startFrame, accumulate, hacc, hseek]

theorem exec_mtUnrecognised (ctl seq mtype : Byte) (s : State) :
    exec (.mtUnrecognised ctl seq mtype) s = candidate [ctl, seq, mtype] s := rfl

/-- Settles O35: the row runs at a boundary and its third byte is no message type. -/
theorem unrecognisedTypeIsAbandoned : Obligations.UnrecognisedTypeIsAbandoned := by
  intro ctl seq mtype s hctl hcmd hrsp hntf hseek hopen
  have hs : atBoundary s = true := (atBoundary_iff s).2 ⟨hseek, hopen⟩
  have hm : isMessageType mtype = false := (isMessageType_eq_false_iff mtype).2 ⟨hcmd, hrsp, hntf⟩
  rw [exec_mtUnrecognised, candidate_runs hs, deliver_badType hs ((isControl_iff ctl).2 hctl) hm, afterBadType]

/-! ### The end of a complete candidate (R161, R162) -/

theorem toNat_ofNat_length {region : List Byte} (h : region.length ≤ 65535) :
    (BitVec.ofNat 16 region.length).toNat = region.length := by
  rw [BitVec.toNat_ofNat]
  omega

theorem ofNat_length_eq_zero_iff {region : List Byte} (h : region.length ≤ 65535) :
    BitVec.ofNat 16 region.length = 0#16 ↔ region = [] := by
  rw [← BitVec.toNat_inj, toNat_ofNat_length h]
  exact List.length_eq_zero_iff

theorem bufRead_storeBytes {u : State} {region : List Byte} {m : Memory} (hbuf : u.buf = storeBytes 0 region m)
    {k : Nat} (hk : k < region.length) : bufRead u k = region.getD k 0 := by
  have hcell := readCell_storeBytes_inside (i := 0) region m hk
  rw [Nat.zero_add, ← hbuf] at hcell
  exact bufRead_written hcell

/-- The stored region, from any index on. -/
theorem bufSlice_storeBytes {u : State} {region : List Byte} {m : Memory} (hbuf : u.buf = storeBytes 0 region m)
    (start : Nat) : bufSlice u start (region.length - start) = region.drop start := by
  apply List.ext_getElem
  · rw [bufSlice_length, List.length_drop]
  · intro k hk _
    rw [bufSlice_length] at hk
    have hin : start + k < region.length := by omega
    simp only [bufSlice, List.getElem_map, List.getElem_range, List.getElem_drop]
    rw [bufRead_storeBytes hbuf hin, List.getD_eq_getElem _ _ hin]

/-- Only the outputs of the reader differ: its state, the code, the record, the queue and the fault flag. -/
def OnlyOutputs (u t : State) : Prop :=
  t = { u with
    rxState := t.rxState
    rxEvent := t.rxEvent
    eventLog := t.eventLog
    queue := t.queue
    faultOverflow := t.faultOverflow }

theorem onlyOutputs_emitCandidate (u : State) : OnlyOutputs u (emitCandidate u) := by
  rcases emitCandidate_cases u with ⟨_, _, he⟩ | ⟨_, _, he⟩ | ⟨_, _, he⟩ <;> rw [he] <;> rfl

/-- The state in which a candidate stands when its last checksum byte is judged. -/
def atVerdict (ctl seq mtype : Byte) (field region : List Byte) (ck : Word) (s : State) : State :=
  { beforeChecksum ctl seq mtype (coveredBytes seq mtype field region) region s with
    rCklo := loByte ck
    rxState := .ckHi
    rxEvent := .none }

/-- What the last checksum byte does to that state (R161). -/
def afterVerdict (ctl seq mtype : Byte) (field region : List Byte) (ck : Word) (s : State) : State :=
  if ck = cksum (coveredBytes seq mtype field region) then
    emitCandidate (atVerdict ctl seq mtype field region ck s)
  else present .badCksum (goTo .seek (atVerdict ctl seq mtype field region ck s))

theorem deliver_checksum_verdict (ctl seq mtype : Byte) (field region : List Byte) (ck : Word) (s : State) :
    deliver (littleEndian ck) (beforeChecksum ctl seq mtype (coveredBytes seq mtype field region) region s) =
      .next (afterVerdict ctl seq mtype field region ck s) := by
  have hacc : (beforeChecksum ctl seq mtype (coveredBytes seq mtype field region) region s).rAcc =
      cksum (coveredBytes seq mtype field region) := accRun_seed_fst _
  rw [deliver_checksum rfl ck, afterVerdict]
  by_cases hck : ck = cksum (coveredBytes seq mtype field region)
  · rw [if_pos hck, if_pos (hck.trans hacc.symm)]
    rfl
  · rw [if_neg hck, if_neg fun h => hck (h.trans hacc)]
    rfl

theorem onlyOutputs_afterVerdict (ctl seq mtype : Byte) (field region : List Byte) (ck : Word) (s : State) :
    OnlyOutputs (atVerdict ctl seq mtype field region ck s) (afterVerdict ctl seq mtype field region ck s) := by
  rw [afterVerdict]
  split
  · exact onlyOutputs_emitCandidate _
  · rfl

/-- The frame that `judge` makes is the one `MakeFrame` reads off the registers and the buffer (R162, R165). -/
theorem makeFrame_atVerdict {ctl seq mtype : Byte} {field region : List Byte} {ck : Word} {s : State}
    (hlen : region.length ≤ 65535) (hcat : ctl ≠ 0x02#8 → region = [])
    (hne : ¬(ctl = 0x02#8 ∧ region = []))
    (hck : ck = cksum (coveredBytes seq mtype field region)) :
    makeFrame (atVerdict ctl seq mtype field region ck s) =
      { control := ctl
        sequenceId := seq
        messageType := mtype
        length := BitVec.ofNat 16 region.length
        messageId := region.head?
        payload := region.tail
        checksum := ck } := by
  have hbuf : (atVerdict ctl seq mtype field region ck s).buf = storeBytes 0 region s.buf := rfl
  have hacc : (atVerdict ctl seq mtype field region ck s).rAcc = ck := (accRun_seed_fst _).trans hck.symm
  have hmid : (if ctl = 0x02#8 then some (bufRead (atVerdict ctl seq mtype field region ck s) 0) else none) =
      region.head? := by
    by_cases hctl : ctl = 0x02#8
    · cases region with
      | nil => exact absurd ⟨hctl, rfl⟩ hne
      | cons b rest =>
        rw [if_pos hctl, bufRead_storeBytes hbuf (by rw [List.length_cons]; omega)]
        rfl
    · rw [if_neg hctl, hcat hctl, List.head?_nil]
  have hpay : (if ctl = 0x02#8 then
        bufSlice (atVerdict ctl seq mtype field region ck s) 1 ((BitVec.ofNat 16 region.length).toNat - 1)
      else []) = region.tail := by
    by_cases hctl : ctl = 0x02#8
    · rw [if_pos hctl, toNat_ofNat_length hlen, bufSlice_storeBytes hbuf, List.drop_one]
    · rw [if_neg hctl, hcat hctl, List.tail_nil]
  rw [← hmid, ← hpay]
  rw [makeFrame, hacc]
  rfl

/-- The outputs after the checksum are those of the verdict (R161, R218). -/
theorem verdictShown_afterVerdict {ctl seq mtype : Byte} {field region : List Byte} {ck : Word} {s : State}
    (hlen : region.length ≤ 65535) (hcat : ctl ≠ 0x02#8 → region = []) :
    VerdictShown s (afterVerdict ctl seq mtype field region ck s) (judge ctl seq mtype field region ck) := by
  by_cases hck : ck = cksum (coveredBytes seq mtype field region)
  · rw [afterVerdict, if_pos hck, judge, if_neg (not_not.2 hck), params_ctlSof]
    rcases emitCandidate_cases (atVerdict ctl seq mtype field region ck s) with
      ⟨hctl, hzero, he⟩ | ⟨hne, hfull, he⟩ | ⟨hne, hroom, he⟩
    · rw [if_pos ⟨hctl, (ofNat_length_eq_zero_iff hlen).1 hzero⟩, he]
      exact ⟨rfl, rfl, rfl, rfl, rfl⟩
    · rw [if_neg fun h => hne ⟨h.1, (ofNat_length_eq_zero_iff hlen).2 h.2⟩, he, VerdictShown,
        if_pos (show s.queue.length = params.queueCap from hfull)]
      exact ⟨rfl, rfl, rfl, rfl, rfl⟩
    · have hne' : ¬(ctl = 0x02#8 ∧ region = []) := fun h =>
        hne ⟨h.1, (ofNat_length_eq_zero_iff hlen).2 h.2⟩
      rw [if_neg hne', he, VerdictShown, if_neg (show s.queue.length ≠ params.queueCap from hroom),
        makeFrame_atVerdict hlen hcat hne' hck]
      exact ⟨rfl, rfl, rfl, rfl, rfl⟩
  · rw [afterVerdict, if_neg hck, judge, if_pos hck]
    exact ⟨rfl, rfl, rfl, rfl, rfl⟩

/-- The two checksum bytes complete a candidate whose other bytes have been consumed. -/
theorem deliver_checksum_consumed {ctl : Byte} (seq mtype : Byte) (field : List Byte) {region : List Byte}
    (hlen : region.length ≤ 65535) (hcat : ctl ≠ 0x02#8 → region = []) (ck : Word) (s : State) :
    ∃ t, deliver (littleEndian ck)
        (beforeChecksum ctl seq mtype (coveredBytes seq mtype field region) region s) = .next t ∧
      CandidateConsumed s t ctl seq mtype field region ck := by
  have hout := onlyOutputs_afterVerdict ctl seq mtype field region ck s
  have hbuf : (afterVerdict ctl seq mtype field region ck s).buf = storeBytes 0 region s.buf :=
    (congrArg State.buf hout :)
  have hepoch : (afterVerdict ctl seq mtype field region ck s).epoch = s.epoch := (congrArg State.epoch hout :)
  exact ⟨_, deliver_checksum_verdict ctl seq mtype field region ck s, {
    shown := verdictShown_afterVerdict hlen hcat
    rCtl := (congrArg State.rCtl hout :)
    rSeq := (congrArg State.rSeq hout :)
    rMtype := (congrArg State.rMtype hout :)
    rLen := (congrArg State.rLen hout :)
    rCnt := (congrArg State.rCnt hout :)
    rAcc := (congrArg State.rAcc hout :).trans (accRun_seed_fst _)
    rPar := (congrArg State.rPar hout :).trans (congrArg Prod.snd (accRun_seed _))
    rCklo := (congrArg State.rCklo hout :)
    stored := fun k hk => bufRead_storeBytes hbuf hk
    untouched := fun k hk => by
      rw [bufRead, bufRead, hbuf, hepoch, readCell_storeBytes_above region s.buf (by omega)]
    seqCtr := (congrArg State.seqCtr hout :)
    openFlag := (congrArg State.openFlag hout :)
    result := (congrArg State.result hout :)
    delivered := (congrArg State.delivered hout :)
    epoch := hepoch
    inbox := (congrArg State.inbox hout :) }⟩

/-! ### The rows of the wire (R81 to R84) -/

section
variable {s : State} (hs : atBoundary s = true) {mtype : Byte} (hm : isMessageType mtype = true) (seq : Byte)
include hs hm

theorem deliver_sofShort {region : List Byte} (hr : shortRegion region = true) (ck : Word) :
    ∃ t, deliver (sofShortBytes mtype seq region ck) s = .next t ∧
      CandidateConsumed s t 0x02 seq mtype [BitVec.ofNat 8 region.length] region ck := by
  have hlen := ((shortRegion_iff region).1 hr).1
  obtain ⟨t, ht, hconsumed⟩ := deliver_checksum_consumed (ctl := 0x02) seq mtype [BitVec.ofNat 8 region.length]
    (region := region) (by omega) (fun h => absurd rfl h) ck s
  exact ⟨t, (deliver_short hs hm seq hr (littleEndian ck)).trans ht, hconsumed⟩

theorem deliver_sofExt {region : List Byte} (hr : extRegion region = true) (ck : Word) :
    ∃ t, deliver (sofExtBytes mtype seq region ck) s = .next t ∧
      CandidateConsumed s t 0x02 seq mtype (0x82 :: bigEndian (BitVec.ofNat 16 region.length)) region ck := by
  obtain ⟨t, ht, hconsumed⟩ := deliver_checksum_consumed (ctl := 0x02) seq mtype
    (0x82 :: bigEndian (BitVec.ofNat 16 region.length)) ((extRegion_iff region).1 hr) (fun h => absurd rfl h) ck s
  exact ⟨t, (deliver_ext hs hm seq hr (littleEndian ck)).trans ht, hconsumed⟩

theorem deliver_pairFrame {ctl : Byte} (hc : isControl ctl = true) (hctl : ctl ≠ 0x02#8) (ck : Word) :
    ∃ t, deliver (pairFrameBytes ctl mtype seq ck) s = .next t ∧
      CandidateConsumed s t ctl seq mtype [] [] ck := by
  have hpair : afterPair ctl seq mtype s = beforeChecksum ctl seq mtype (coveredBytes seq mtype [] []) [] s := by
    rw [afterPair, afterType, params_ctlSof, if_neg hctl]
    rfl
  obtain ⟨t, ht, hconsumed⟩ := deliver_checksum_consumed (ctl := ctl) seq mtype [] (region := [])
    (Nat.zero_le _) (fun _ => rfl) ck s
  exact ⟨t, ((deliver_pair hs hc hm (littleEndian ck)).trans (by rw [hpair])).trans ht, hconsumed⟩

end

/-- A wire row where it is enabled consumes what its bytes are (log 13). -/
theorem exec_row_consumed {i : Instr} {bytes : List Byte} {s : State} {ctl seq mtype : Byte}
    {field region : List Byte} {ck : Word} (hen : enabled i s = true) (hi : linkBytes i = some bytes)
    (h : ∃ t, deliver bytes s = .next t ∧ CandidateConsumed s t ctl seq mtype field region ck) :
    ∃ t, exec i s = .next t ∧ CandidateConsumed s t ctl seq mtype field region ck := by
  rwa [exec_link hi, hen, whenEnabled_true]

/-- Settles O36: the row of each form and message type is the delivery of its bytes. -/
theorem startOfFrameRowsAreConsumed : Obligations.StartOfFrameRowsAreConsumed := by
  intro seq region ck s hseek hopen
  have hs : atBoundary s = true := (atBoundary_iff s).2 ⟨hseek, hopen⟩
  refine ⟨fun hr => ⟨?_, ?_, ?_⟩, fun hr => ⟨?_, ?_, ?_⟩⟩
  · exact exec_row_consumed hs rfl (deliver_sofShort hs (by decide) seq hr ck)
  · exact exec_row_consumed hs rfl (deliver_sofShort hs (by decide) seq hr ck)
  · exact exec_row_consumed hs rfl (deliver_sofShort hs (by decide) seq hr ck)
  · exact exec_row_consumed hs rfl (deliver_sofExt hs (by decide) seq hr ck)
  · exact exec_row_consumed hs rfl (deliver_sofExt hs (by decide) seq hr ck)
  · exact exec_row_consumed hs rfl (deliver_sofExt hs (by decide) seq hr ck)

/-- Settles O37: likewise for the two categories without a length and a region. -/
theorem pairRowsAreConsumed : Obligations.PairRowsAreConsumed := by
  intro seq ck s hseek hopen
  have hs : atBoundary s = true := (atBoundary_iff s).2 ⟨hseek, hopen⟩
  refine ⟨?_, ?_, ?_, ?_, ?_, ?_⟩
  all_goals exact exec_row_consumed hs rfl (deliver_pairFrame hs (by decide) seq (by decide) (by decide) ck)

end Sys2Proof.Machine
end

section
/-! Proofs for the family `43_rx_reassembly.md`: from a frame boundary the reader is the functional reading of
R165. One unit of the reading is one candidate consumed; a string that ends inside a candidate leaves the reader
inside a frame; the whole string is an induction over the units. -/

namespace Sys2Proof.Machine

/-! ### The units of the reading -/

theorem judgeTail_some {ctl seq mtype : Byte} {field region s rest : List Byte} {v : Verdict}
    (h : judgeTail ctl seq mtype field region s = some (v, rest)) :
    ∃ ck, v = judge ctl seq mtype field region ck ∧ s = littleEndian ck ++ rest := by
  match s, h with
  | low :: high :: rest, rfl =>
    exact ⟨word high low, rfl, by rw [littleEndian_eq, loByte_word, hiByte_word]; rfl⟩

theorem judgeTail_none {ctl seq mtype : Byte} {field region s : List Byte}
    (h : judgeTail ctl seq mtype field region s = none) : s.length < 2 := by
  match s, h with
  | [], _ => exact Nat.zero_lt_two
  | [_], _ => exact Nat.one_lt_two

theorem parseAfterPair_sof (seq mtype : Byte) {s : List Byte} {len : Word} {taken : Nat}
    (h : lenDec s = some (len, taken)) :
    parseAfterPair 0x02#8 seq mtype s =
      judgeTail 0x02#8 seq mtype (s.take taken) ((s.drop taken).take len.toNat)
        ((s.drop taken).drop len.toNat) := by
  rw [parseAfterPair, params_ctlSof, if_pos rfl, h]

theorem parseAfterPair_sof_none (seq mtype : Byte) {s : List Byte} (h : lenDec s = none) :
    parseAfterPair 0x02#8 seq mtype s = none := by
  rw [parseAfterPair, params_ctlSof, if_pos rfl, h]

theorem parseAfterPair_other {ctl : Byte} (hctl : ctl ≠ 0x02#8) (seq mtype : Byte) (s : List Byte) :
    parseAfterPair ctl seq mtype s = judgeTail ctl seq mtype [] [] s := by
  rw [parseAfterPair, params_ctlSof, if_neg hctl]

/-- A StartOfFrame candidate in the reading is one of the two forms of R81 and R82. -/
theorem parseAfterPair_sof_some {seq mtype : Byte} {s rest : List Byte} {v : Verdict}
    (h : parseAfterPair 0x02#8 seq mtype s = some (v, rest)) :
    ∃ region ck,
      (shortRegion region = true ∧ v = judge 0x02#8 seq mtype [BitVec.ofNat 8 region.length] region ck ∧
        s = BitVec.ofNat 8 region.length :: (region ++ (littleEndian ck ++ rest))) ∨
      (extRegion region = true ∧
        v = judge 0x02#8 seq mtype (0x82#8 :: bigEndian (BitVec.ofNat 16 region.length)) region ck ∧
        s = 0x82#8 :: (bigEndian (BitVec.ofNat 16 region.length) ++ (region ++ (littleEndian ck ++ rest)))) := by
  cases hdec : lenDec s with
  | none =>
    rw [parseAfterPair_sof_none seq mtype hdec] at h
    cases h
  | some field =>
    obtain ⟨len, taken⟩ := field
    rw [parseAfterPair_sof seq mtype hdec] at h
    obtain ⟨ck, rfl, hdrop⟩ := judgeTail_some h
    have hlen := length_take_of_drop hdrop
    have hsplit := List.take_append_drop len.toNat (s.drop taken)
    rw [hdrop] at hsplit
    have hword : BitVec.ofNat 16 ((s.drop taken).take len.toNat).length = len := by
      rw [hlen, BitVec.ofNat_toNat, BitVec.setWidth_eq]
    refine ⟨(s.drop taken).take len.toNat, ck, ?_⟩
    obtain ⟨hi, lo, tail, rfl, rfl, rfl⟩ | ⟨b, tail, rfl, hb, rfl, rfl⟩ := lenDec_cases hdec
    · refine .inr ⟨(extRegion_iff _).2 ?_, ?_, ?_⟩
      · have hbound := (word hi lo).isLt
        omega
      · rw [hword, bigEndian, hiByte_word, loByte_word]
        rfl
      · rw [hword, bigEndian, hiByte_word, loByte_word, hsplit]
        rfl
    · have hnat : (b.setWidth 16).toNat = b.toNat := by
        rw [BitVec.toNat_setWidth]
        omega
      have hbyte : BitVec.ofNat 8 (((b :: tail).drop 1).take (b.setWidth 16).toNat).length = b := by
        rw [hlen, hnat, BitVec.ofNat_toNat, BitVec.setWidth_eq]
      refine .inl ⟨(shortRegion_iff _).2 ⟨?_, ?_⟩, ?_, ?_⟩
      · have hbound := b.isLt
        omega
      · rwa [hbyte]
      · rw [hbyte]
        rfl
      · rw [hbyte, hsplit]
        rfl

/-! ### One unit consumed -/

/-- What a consumed unit of the stream leaves, as far as the outputs go. -/
structure UnitConsumed (s t : State) (v : Verdict) : Prop where
  shown : VerdictShown s t v
  openFlag : t.openFlag = s.openFlag
  seqCtr : t.seqCtr = s.seqCtr
  result : t.result = s.result
  delivered : t.delivered = s.delivered
  inbox : t.inbox = s.inbox

theorem CandidateConsumed.unit {s t : State} {ctl seq mtype : Byte} {field region : List Byte} {ck : Word}
    (h : CandidateConsumed s t ctl seq mtype field region ck) :
    UnitConsumed s t (judge ctl seq mtype field region ck) :=
  ⟨h.shown, h.openFlag, h.seqCtr, h.result, h.delivered, h.inbox⟩

/-- A unit of the reading is consumed with its verdict; it is a non-empty front of the string (R91). -/
theorem deliver_unit {s : State} (hs : atBoundary s = true) {bytes rest : List Byte} {v : Verdict}
    (h : parseUnit bytes = some (v, rest)) :
    ∃ front t, front ≠ [] ∧ bytes = front ++ rest ∧ deliver front s = .next t ∧ UnitConsumed s t v := by
  have hseek := ((atBoundary_iff s).1 hs).1
  match bytes, h with
  | b :: tail, h =>
    cases hb : isControl b with
    | false =>
      rw [parseUnit, hb, if_neg Bool.false_ne_true] at h
      cases h
      exact ⟨[b], { s with rxEvent := .none }, List.cons_ne_nil _ _, rfl,
        (deliver_single (rxEnabled_of_atBoundary hs) b).trans (rxByte_noise hs hb),
        ⟨hseek, rfl, rfl, rfl, rfl⟩, rfl, rfl, rfl, rfl, rfl⟩
    | true =>
      rw [parseUnit, hb, if_pos rfl] at h
      match tail, h with
      | seq :: mtype :: tail, h =>
        cases hm : isMessageType mtype with
        | false =>
          rw [parseAfterControl, hm, if_neg Bool.false_ne_true] at h
          cases h
          exact ⟨[b, seq, mtype], afterBadType b seq mtype s, List.cons_ne_nil _ _, rfl,
            deliver_badType hs hb hm seq, ⟨hseek, rfl, rfl, rfl, rfl⟩, rfl, rfl, rfl, rfl, rfl⟩
        | true =>
          rw [parseAfterControl, hm, if_pos rfl] at h
          by_cases hctl : b = 0x02#8
          · subst hctl
            obtain ⟨region, ck, ⟨hr, rfl, rfl⟩ | ⟨hr, rfl, rfl⟩⟩ := parseAfterPair_sof_some h
            · obtain ⟨t, ht, hconsumed⟩ := deliver_sofShort hs hm seq hr ck
              refine ⟨_, t, List.cons_ne_nil _ _, ?_, ht, hconsumed.unit⟩
              simp only [params_ctlSof, List.cons_append, List.append_assoc]
            · obtain ⟨t, ht, hconsumed⟩ := deliver_sofExt hs hm seq hr ck
              refine ⟨_, t, List.cons_ne_nil _ _, ?_, ht, hconsumed.unit⟩
              simp only [params_ctlSof, params_lenEsc, List.cons_append, List.append_assoc]
          · rw [parseAfterPair_other hctl] at h
            obtain ⟨ck, rfl, rfl⟩ := judgeTail_some h
            obtain ⟨t, ht, hconsumed⟩ := deliver_pairFrame hs hm seq hb hctl ck
            exact ⟨_, t, List.cons_ne_nil _ _, rfl, ht, hconsumed.unit⟩

/-! ### A string that ends inside a candidate -/

/-- The bytes are all consumed, the reader is inside a frame, and nothing is shown. -/
def StaysInFrame (bytes : List Byte) (s : State) : Prop :=
  ∃ t, deliver bytes s = .next t ∧ Quiet s t ∧ inFrame t = true

theorem staysInFrame_nil {s : State} (h : inFrame s = true) : StaysInFrame [] s :=
  ⟨s, rfl, .refl s, h⟩

theorem staysInFrame_of_deliver {bytes rest : List Byte} {s u : State} (h : deliver bytes s = deliver rest u)
    (hq : Quiet s u) (hrest : StaysInFrame rest u) : StaysInFrame bytes s := by
  obtain ⟨t, ht, hut, hin⟩ := hrest
  exact ⟨t, h.trans ht, hq.trans hut, hin⟩

theorem staysInFrame_checksum {s : State} (hs : s.rxState = .ckLo) {bytes : List Byte}
    (h : bytes.length < 2) : StaysInFrame bytes s := by
  match bytes, h with
  | [], _ => exact staysInFrame_nil (by rw [inFrame, hs])
  | [b], _ =>
    exact staysInFrame_of_deliver (deliver_cons (by rw [rxEnabled, hs]) (rxByte_ckLo hs b) [])
      (quiet_registers _) (staysInFrame_nil rfl)

/-- Fewer bytes than are left of the region. -/
theorem staysInFrame_region {bytes : List Byte} {s : State} (hs : s.rxState = .body)
    (h : s.rCnt.toNat + bytes.length < s.rLen.toNat) : StaysInFrame bytes s := by
  induction bytes generalizing s with
  | nil => exact staysInFrame_nil (by rw [inFrame, hs])
  | cons b rest ih =>
    have hbound := s.rLen.isLt
    rw [List.length_cons] at h
    have hcnt : (s.rCnt + 1#16).toNat = s.rCnt.toNat + 1 := by
      rw [BitVec.toNat_add]
      exact Nat.mod_eq_of_lt (by simp; omega)
    have hmore : s.rCnt + 1#16 ≠ s.rLen := fun he => by rw [he] at hcnt; omega
    refine staysInFrame_of_deliver (deliver_cons (by rw [rxEnabled, hs]) (rxByte_body hs (by omega) b) rest)
      (quiet_registers _) (ih ?_ ?_)
    · simp [hmore]
    · simp [hcnt]
      omega

/-- The length is known, and region and checksum are not all there. -/
theorem staysInFrame_afterLength {bytes : List Byte} {s : State} (hs : s.rxState = afterLength s.rLen)
    (hcnt : s.rCnt = 0#16) (he : s.rxEvent = .none) (h : (bytes.drop s.rLen.toNat).length < 2) :
    StaysInFrame bytes s := by
  by_cases hshort : bytes.length < s.rLen.toNat
  · have hne : s.rLen ≠ 0#16 := fun h0 => by rw [h0] at hshort; exact absurd hshort (Nat.not_lt_zero _)
    refine staysInFrame_region (by rw [hs, afterLength, if_neg hne]) ?_
    rwa [hcnt, BitVec.toNat_zero, Nat.zero_add]
  · have hregion := deliver_whole_region (region := bytes.take s.rLen.toNat) hs
      (by rw [List.length_take]; omega) hcnt he (bytes.drop s.rLen.toNat)
    rw [List.take_append_drop] at hregion
    exact staysInFrame_of_deliver hregion (quiet_registers _)
      (staysInFrame_checksum rfl h)

/-- A StartOfFrame candidate that ends in its length field. -/
theorem staysInFrame_lengthField {bytes : List Byte} {s : State} (hs : s.rxState = .len0)
    (h : lenDec bytes = none) : StaysInFrame bytes s := by
  have hesc (rest : List Byte) := deliver_cons (by rw [rxEnabled, hs]) (rxByte_len0 hs 0x82#8) rest
  match bytes, h with
  | [], _ => exact staysInFrame_nil (by rw [inFrame, hs])
  | b :: rest, h =>
    by_cases hb : b = 0x82#8
    · subst hb
      match rest, h with
      | [], _ =>
        exact staysInFrame_of_deliver (hesc []) (quiet_registers _)
          (staysInFrame_nil rfl)
      | [hi], _ =>
        refine staysInFrame_of_deliver (hesc [hi]) (quiet_registers _) ?_
        exact staysInFrame_of_deliver (deliver_cons rfl (rxByte_lenHi rfl hi) [])
          (quiet_registers _) (staysInFrame_nil rfl)
    · rw [lenDec_short hb] at h
      cases h

/-- A StartOfFrame candidate from its length field on, with bytes missing. -/
theorem staysInFrame_sof {seq mtype : Byte} {bytes : List Byte} {s : State} (hs : s.rxState = .len0)
    (hcnt : s.rCnt = 0#16) (h : parseAfterPair 0x02#8 seq mtype bytes = none) : StaysInFrame bytes s := by
  cases hdec : lenDec bytes with
  | none => exact staysInFrame_lengthField hs hdec
  | some field =>
    obtain ⟨len, taken⟩ := field
    rw [parseAfterPair_sof seq mtype hdec] at h
    have hmissing := judgeTail_none h
    obtain ⟨hi, lo, rest, rfl, rfl, rfl⟩ | ⟨b, rest, rfl, hb, rfl, rfl⟩ := lenDec_cases hdec
    · have hesc := deliver_cons (by rw [rxEnabled, hs]) (rxByte_len0 hs 0x82#8) (hi :: lo :: rest)
      refine staysInFrame_of_deliver hesc (quiet_registers _) ?_
      refine staysInFrame_of_deliver (deliver_cons rfl (rxByte_lenHi rfl hi) (lo :: rest))
        (quiet_registers _) ?_
      refine staysInFrame_of_deliver (deliver_cons rfl (rxByte_lenLo rfl lo) rest)
        (quiet_registers _) ?_
      refine staysInFrame_afterLength ?_ hcnt rfl ?_
      · rfl
      · simpa using hmissing
    · have hlen := deliver_cons (by rw [rxEnabled, hs]) (rxByte_len0 hs b) rest
      rw [if_neg hb] at hlen
      exact staysInFrame_of_deliver hlen (quiet_registers _)
        (staysInFrame_afterLength rfl hcnt rfl hmissing)

/-- A string that the reading finds no unit in leaves the reader inside a frame (R165, the mid-frame stop). -/
theorem staysInFrame_of_parseUnit {s : State} (hs : atBoundary s = true) {bytes : List Byte}
    (hne : bytes ≠ []) (h : parseUnit bytes = none) : StaysInFrame bytes s := by
  obtain ⟨hseek, hopen⟩ := (atBoundary_iff s).1 hs
  match bytes, hne with
  | b :: tail, _ =>
    cases hb : isControl b with
    | false =>
      rw [parseUnit, hb, if_neg Bool.false_ne_true] at h
      cases h
    | true =>
      rw [parseUnit, hb, if_pos rfl] at h
      have hctl (rest : List Byte) := deliver_cons (rxEnabled_of_atBoundary hs) (rxByte_seek hseek hopen b) rest
      rw [hb, if_pos rfl] at hctl
      match tail, h with
      | [], _ =>
        exact staysInFrame_of_deliver (hctl []) (quiet_registers _)
          (staysInFrame_nil rfl)
      | [seq], _ =>
        refine staysInFrame_of_deliver (hctl [seq]) (quiet_registers _) ?_
        exact staysInFrame_of_deliver (deliver_cons rfl (rxByte_hdrSeq rfl seq) [])
          (quiet_registers _) (staysInFrame_nil rfl)
      | seq :: mtype :: tail, h =>
        cases hm : isMessageType mtype with
        | false =>
          rw [parseAfterControl, hm, if_neg Bool.false_ne_true] at h
          cases h
        | true =>
          rw [parseAfterControl, hm, if_pos rfl] at h
          refine staysInFrame_of_deliver (deliver_pair hs hb hm tail)
            (quiet_registers _) ?_
          by_cases hsof : b = 0x02#8
          · subst hsof
            exact staysInFrame_sof rfl rfl h
          · rw [parseAfterPair_other hsof] at h
            exact staysInFrame_checksum (if_neg hsof) (judgeTail_none h)

/-! ### The whole string -/

theorem parse_nil (fuel room : Nat) : parse fuel room [] = ⟨[], [], .boundary, []⟩ := by
  cases fuel <;> rfl

theorem parse_none {bytes : List Byte} (hne : bytes ≠ []) (h : parseUnit bytes = none) (fuel room : Nat) :
    parse (fuel + 1) room bytes = ⟨[], [], .midFrame, []⟩ := by
  rw [parse, if_neg hne, h]

/-- How the reader stands at the end of the reading. -/
def StopShown (t : State) : Stop → Prop
  | .boundary => t.rxState = .seek ∧ t.faultOverflow = false
  | .midFrame => inFrame t = true ∧ t.faultOverflow = false
  | .overflow => t.rxState = .fault ∧ t.faultOverflow = true

/-- What the reading of a string says of the state after it (R165). -/
structure ReadingShown (s t : State) (p : Parsed) : Prop where
  queue : t.queue = s.queue ++ p.frames.map .frameEntry
  eventLog : t.eventLog = p.events.reverse ++ s.eventLog
  stop : StopShown t p.stop
  inbox : t.inbox = if p.left = [] then s.inbox else .bytes p.left :: s.inbox
  openFlag : t.openFlag = s.openFlag
  seqCtr : t.seqCtr = s.seqCtr
  result : t.result = s.result
  delivered : t.delivered = s.delivered

/-- A unit in front adds its codes and frames in front. -/
theorem ReadingShown.prepend {s u t : State} {v : Verdict} {p : Parsed} (h : ReadingShown u t p)
    (hu : UnitConsumed s u v) (codes : List EventCode) (frames : List Frame)
    (hlog : u.eventLog = codes.reverse ++ s.eventLog) (hqueue : u.queue = s.queue ++ frames.map .frameEntry) :
    ReadingShown s t { p with events := codes ++ p.events, frames := frames ++ p.frames } where
  queue := by rw [h.queue, hqueue, List.append_assoc, List.map_append]
  eventLog := by rw [h.eventLog, hlog, List.reverse_append, List.append_assoc]
  stop := h.stop
  inbox := by rw [h.inbox, hu.inbox]
  openFlag := h.openFlag.trans hu.openFlag
  seqCtr := h.seqCtr.trans hu.seqCtr
  result := h.result.trans hu.result
  delivered := h.delivered.trans hu.delivered

/-- A reading whose first unit pushes nothing. -/
theorem readingShown_skip {s u : State} {v : Verdict} (hu : UnitConsumed s u v) (codes : List EventCode)
    (hlog : u.eventLog = codes.reverse ++ s.eventLog) (hqueue : u.queue = s.queue) {fuel : Nat} {rest : List Byte}
    (h : ∃ t, deliver rest u = .next t ∧ ReadingShown u t (parse fuel (100 - u.queue.length) rest)) :
    ∃ t, deliver rest u = .next t ∧
      ReadingShown s t { parse fuel (100 - s.queue.length) rest with
        events := codes ++ (parse fuel (100 - s.queue.length) rest).events } := by
  obtain ⟨t, ht, hread⟩ := h
  rw [hqueue] at hread
  exact ⟨t, ht, hread.prepend hu codes [] hlog (hqueue.trans (List.append_nil _).symm)⟩

/-- A reading that ends with the overflow of its first unit: the bytes after it stay with the link. -/
theorem readingShown_overflow {s u : State} {f : Frame} (hu : UnitConsumed s u (.valid f))
    (hfull : s.queue.length = 100) (rest : List Byte) :
    ∃ t, deliver rest u = .next t ∧ ReadingShown s t ⟨[.overflow], [], .overflow, rest⟩ := by
  have hshown := hu.shown
  rw [VerdictShown, params_queueCap, if_pos hfull] at hshown
  obtain ⟨hstate, _, hlog, hqueue, hflag⟩ := hshown
  have hqueue' : u.queue = s.queue ++ [] := hqueue.trans (List.append_nil _).symm
  cases rest with
  | nil =>
    exact ⟨u, rfl, hqueue', hlog, ⟨hstate, hflag⟩, hu.inbox, hu.openFlag, hu.seqCtr, hu.result, hu.delivered⟩
  | cons b rest =>
    refine ⟨_, deliver_waits (by rw [rxEnabled, hstate]) b rest, hqueue', hlog, ⟨hstate, hflag⟩, ?_,
      hu.openFlag, hu.seqCtr, hu.result, hu.delivered⟩
    rw [if_neg (List.cons_ne_nil b rest), ← hu.inbox]

/-- From a frame boundary a run of bytes shows what their reading says, by induction over its units. -/
theorem deliver_parse {fuel : Nat} {bytes : List Byte} {s : State} (hfuel : bytes.length ≤ fuel)
    (hs : atBoundary s = true) (hf : s.faultOverflow = false) (hq : s.queue.length ≤ 100) :
    ∃ t, deliver bytes s = .next t ∧ ReadingShown s t (parse fuel (100 - s.queue.length) bytes) := by
  obtain ⟨hseek, hopen⟩ := (atBoundary_iff s).1 hs
  induction fuel generalizing bytes s with
  | zero =>
    obtain rfl := List.eq_nil_of_length_eq_zero (Nat.le_zero.1 hfuel)
    exact ⟨s, rfl, (List.append_nil _).symm, rfl, ⟨hseek, hf⟩, rfl, rfl, rfl, rfl, rfl⟩
  | succ fuel ih =>
    by_cases hne : bytes = []
    · subst hne
      rw [parse_nil]
      exact ⟨s, rfl, (List.append_nil _).symm, rfl, ⟨hseek, hf⟩, rfl, rfl, rfl, rfl, rfl⟩
    cases hunit : parseUnit bytes with
    | none =>
      obtain ⟨t, ht, hquiet, hin⟩ := staysInFrame_of_parseUnit hs hne hunit
      rw [parse_none hne hunit]
      exact ⟨t, ht, hquiet.queue.trans (List.append_nil _).symm, hquiet.eventLog,
        ⟨hin, hquiet.faultOverflow.trans hf⟩, hquiet.inbox, hquiet.openFlag, hquiet.seqCtr, hquiet.result,
        hquiet.delivered⟩
    | some unit =>
      obtain ⟨v, rest⟩ := unit
      obtain ⟨front, u, hfront, rfl, hdeliver, hu⟩ := deliver_unit hs hunit
      rw [parse, if_neg hne, hunit, deliver_append hdeliver hu.inbox]
      have hrest : rest.length ≤ fuel := by
        have hpos := List.length_pos_iff.2 hfront
        rw [List.length_append] at hfuel
        omega
      have hgo (hstate : u.rxState = .seek) (hflag : u.faultOverflow = s.faultOverflow)
          (hroom : u.queue.length ≤ 100) :=
        ih hrest ((atBoundary_iff u).2 ⟨hstate, hu.openFlag.trans hopen⟩) (hflag.trans hf) hroom hstate
          (hu.openFlag.trans hopen)
      cases v with
      | noise =>
        obtain ⟨hstate, _, hlog, hqueue, hflag⟩ := hu.shown
        exact readingShown_skip hu [] hlog hqueue (hgo hstate hflag (hqueue ▸ hq))
      | badType =>
        obtain ⟨hstate, _, hlog, hqueue, hflag⟩ := hu.shown
        exact readingShown_skip hu [.badMtype] hlog hqueue (hgo hstate hflag (hqueue ▸ hq))
      | badCksum =>
        obtain ⟨hstate, _, hlog, hqueue, hflag⟩ := hu.shown
        exact readingShown_skip hu [.badCksum] hlog hqueue (hgo hstate hflag (hqueue ▸ hq))
      | zeroLen =>
        obtain ⟨hstate, _, hlog, hqueue, hflag⟩ := hu.shown
        exact readingShown_skip hu [.zeroLen] hlog hqueue (hgo hstate hflag (hqueue ▸ hq))
      | valid f =>
        cases hroom : 100 - s.queue.length with
        | zero => exact readingShown_overflow hu (by omega) rest
        | succ room =>
          have hshown := hu.shown
          rw [VerdictShown, if_neg (by rw [params_queueCap]; omega)] at hshown
          obtain ⟨hstate, _, hlog, hqueue, hflag⟩ := hshown
          have hlen : u.queue.length = s.queue.length + 1 := by rw [hqueue, List.length_append]; rfl
          obtain ⟨t, ht, hread⟩ := hgo hstate hflag (by omega)
          rw [show 100 - u.queue.length = room by omega] at hread
          exact ⟨t, ht, hread.prepend hu [.emit] [f] hlog hqueue⟩

/-- Settles O51. -/
theorem readerIsTheFunctionalReading : Obligations.ReaderIsTheFunctionalReading := by
  intro bytes s hseek hopen hf hq
  have hs : atBoundary s = true := (atBoundary_iff s).2 ⟨hseek, hopen⟩
  obtain ⟨t, ht, hread⟩ := deliver_parse (Nat.le_refl bytes.length) hs hf hq
  refine ⟨t, ?_, hread.queue, hread.eventLog, hread.stop, hread.inbox, hread.openFlag.trans hopen, hread.seqCtr,
    hread.result, hread.delivered⟩
  rw [exec_rxString, rxEnabled_of_atBoundary hs, whenEnabled_true, ht]

end Sys2Proof.Machine
end

section
/-! Proofs for the family `42_tx_encode.md`: agreement with the reader (R138). What an encoder returns is the
bytes of a candidate with its right checksum. -/

namespace Sys2Proof.Machine

/-! ### Candidates with the right checksum -/

theorem judge_valid {ctl seq mtype : Byte} {field region : List Byte} {ck : Word}
    (hck : ck = cksum (coveredBytes seq mtype field region)) (hne : ¬(ctl = 0x02#8 ∧ region = [])) :
    judge ctl seq mtype field region ck =
      .valid
        { control := ctl
          sequenceId := seq
          messageType := mtype
          length := BitVec.ofNat 16 region.length
          messageId := region.head?
          payload := region.tail
          checksum := ck } := by
  rw [judge, if_neg (not_not.2 hck), params_ctlSof, if_neg hne]

/-- A valid candidate consumed with room in the queue is emitted. -/
theorem CandidateConsumed.emitted {s t : State} {ctl seq mtype : Byte} {field region : List Byte} {ck : Word}
    (h : CandidateConsumed s t ctl seq mtype field region ck)
    (hck : ck = cksum (coveredBytes seq mtype field region)) (hne : ¬(ctl = 0x02#8 ∧ region = []))
    (hroom : s.queue.length < 100) :
    t.queue = s.queue ++
        [.frameEntry
          { control := ctl
            sequenceId := seq
            messageType := mtype
            length := BitVec.ofNat 16 region.length
            messageId := region.head?
            payload := region.tail
            checksum := ck }] ∧
      t.rxState = .seek ∧ t.eventLog = .emit :: s.eventLog ∧ t.inbox = s.inbox := by
  have hshown := h.shown
  rw [judge_valid hck hne, VerdictShown, if_neg (by rw [params_queueCap]; omega)] at hshown
  obtain ⟨hstate, _, hlog, hqueue, _⟩ := hshown
  exact ⟨hqueue, hstate, hlog, h.inbox⟩

theorem exec_rxString_boundary {s : State} (hs : atBoundary s = true) (bytes : List Byte) :
    exec (.rxString bytes) s = deliver bytes s := by
  rw [exec_rxString, rxEnabled_of_atBoundary hs, whenEnabled_true]

/-! ### Commands -/

/-- The bytes of a command: its header, its length field, its region and the checksum of all that (R131). -/
theorem frameBytes_command (seq : Byte) (field : List Byte) (messageId : Byte) (payload : List Byte) :
    frameBytes 0x02#8 (commandBody seq field messageId payload) =
      0x02#8 :: seq :: 0xA0#8 :: (field ++ ((messageId :: payload) ++
        littleEndian (cksum (coveredBytes seq 0xA0 field (messageId :: payload))))) := by
  have hbody : commandBody seq field messageId payload = coveredBytes seq 0xA0 field (messageId :: payload) := by
    simp only [commandBody, coveredBytes, params_mtCommand, List.cons_append, List.nil_append,
      List.append_assoc]
    rfl
  rw [frameBytes, cksumBytes, hbody]
  simp only [coveredBytes, List.cons_append, List.nil_append, List.append_assoc]
  rfl

/-- The bytes of a command are consumed as its candidate, but for the length 130 (C1). -/
theorem deliver_command {s : State} (hs : atBoundary s = true) (seq : Byte) {field : List Byte}
    {messageId : Byte} {payload : List Byte} (hfield : lenEnc (payload.length + 1) = some field)
    (hlen : payload.length ≤ 65534) (hne : payload.length ≠ 129) :
    ∃ t, deliver (frameBytes 0x02#8 (commandBody seq field messageId payload)) s = .next t ∧
      CandidateConsumed s t 0x02 seq 0xA0 field (messageId :: payload)
        (cksum (coveredBytes seq 0xA0 field (messageId :: payload))) := by
  rw [frameBytes_command]
  by_cases hshort : payload.length + 1 ≤ 255
  · rw [lenEnc_short hshort] at hfield
    obtain rfl := Option.some.inj hfield
    have hesc : BitVec.ofNat 8 (payload.length + 1) ≠ 0x82#8 := mt (ofNat_eq_escape_iff hshort).1 (by omega)
    have hregion : shortRegion (messageId :: payload) = true := (shortRegion_iff _).2 ⟨hshort, hesc⟩
    exact deliver_sofShort hs (by decide) seq hregion _
  · rw [lenEnc_ext (by omega) (by omega)] at hfield
    obtain rfl := Option.some.inj hfield
    have hregion : extRegion (messageId :: payload) = true :=
      (extRegion_iff _).2 (by rw [List.length_cons]; omega)
    exact deliver_sofExt hs (by decide) seq hregion _

/-- Settles O52: the bytes returned are those of a command candidate, whose form its length picks. -/
theorem encodedCommandIsReceived : Obligations.EncodedCommandIsReceived := by
  intro messageId payload bytes s sent hlen hne henc hseek hopen hroom
  have hs : atBoundary s = true := (atBoundary_iff s).2 ⟨hseek, hopen⟩
  rcases execEncCmd_cases messageId payload sent with ⟨_, field, hfield, hexec⟩ | ⟨hlong, _⟩
  · rw [exec_encCmd, hexec] at henc
    have hresult := congrArg State.result (Host.Outcome.next.inj henc)
    obtain rfl : frameBytes 0x02#8 (commandBody (nextSeqValue sent) field messageId payload) = bytes :=
      Result.bytes.inj hresult
    obtain ⟨t, ht, hconsumed⟩ := deliver_command hs (nextSeqValue sent) hfield hlen hne
    exact ⟨t, _, (exec_rxString_boundary hs _).trans ht,
      hconsumed.emitted rfl (fun h => List.cons_ne_nil _ _ h.2) hroom⟩
  · omega

/-! ### Acknowledgements -/

/-- Settles O53: the bytes returned are those of an Acknowledge candidate with the echoed pair. -/
theorem encodedAckIsReceived : Obligations.EncodedAckIsReceived := by
  intro first seq mtype rest bytes s sent hmtype henc hseek hopen hroom
  have hs : atBoundary s = true := (atBoundary_iff s).2 ⟨hseek, hopen⟩
  rw [exec_encAck, ackResult_pair] at henc
  have hresult := congrArg State.result (Host.Outcome.next.inj henc)
  obtain rfl : frameBytes 0x06 [seq, mtype] = bytes := Result.bytes.inj hresult
  obtain ⟨t, ht, hconsumed⟩ := deliver_pairFrame hs ((isMessageType_iff mtype).2 hmtype) seq (ctl := 0x06)
    (by decide) (by decide) (cksum [seq, mtype])
  have hemitted := hconsumed.emitted rfl (fun h => absurd h.1 (by decide)) hroom
  rw [cksum_pair] at hemitted
  exact ⟨t, (exec_rxString_boundary hs _).trans ht, hemitted⟩

end Sys2Proof.Machine
end

section
/-! The step: which pending input it takes (R13, R65, R223, R243), and what it does to the sequence counter
(R130). -/

namespace Sys2Proof.Machine

/-! ### The input at the front -/

theorem step_of_run {s : State} {i : Instr} {inbox : List Input} (h : choose s [] s.inbox = .run i inbox) :
    step s = exec i { s with inbox := inbox } := by
  rw [step, h]

theorem step_of_idle {s : State} (h : choose s [] s.inbox = .idle) :
    step s = if sentinelEnabled s then exec .sentinel s else .next s := by
  rw [step, h]

theorem choose_call {s : State} {a : Agent} {waiting : List Agent} (hw : waiting.contains a = false) (i : Instr)
    (rest : List Input) :
    choose s waiting (.call a i :: rest) = chooseCall s a i rest (choose s (a :: waiting) rest) := by
  rw [choose, hw, if_neg Bool.false_ne_true]

/-- An enabled call of its own agent is taken. -/
theorem choose_call_run {s : State} {a : Agent} {i : Instr} (hm : mayPerform a i = true) (he : enabled i s = true)
    {waiting : List Agent} (hw : waiting.contains a = false) (rest : List Input) :
    choose s waiting (.call a i :: rest) = .run i rest := by
  rw [choose_call hw, chooseCall, hm, he, if_pos rfl, if_pos rfl]

/-- Bytes that decode are taken while the reader takes bytes; those after the instruction stay. -/
theorem choose_bytes_run {s : State} (hr : rxEnabled s = true) {bytes more : List Byte} {i : Instr}
    (hd : decode s.rxState bytes = .ok i more) {waiting : List Agent} (hw : waiting.contains .link = false)
    (rest : List Input) :
    choose s waiting (.bytes bytes :: rest) = .run i (putBack more rest) := by
  have hne : bytes ≠ [] := by
    rintro rfl
    cases hd
  rw [choose, hw, if_neg Bool.false_ne_true, if_neg hne, chooseBytes, fetch, hr, if_pos rfl, hd]

/-- Bytes that the reader does not take are passed over. -/
theorem choose_bytes_waits {s : State} (hr : rxEnabled s = false) (bytes : List Byte) (rest : List Input) :
    ∃ waiting, waiting ⊆ [Agent.link] ∧
      choose s [] (.bytes bytes :: rest) = keepWaiting (.bytes bytes) (choose s waiting rest) := by
  by_cases hne : bytes = []
  · refine ⟨[], List.nil_subset _, ?_⟩
    rw [choose, if_neg (by simp), if_pos hne]
  · refine ⟨[.link], List.Subset.refl _, ?_⟩
    exact choose_waiting ((waits_bytes s bytes).2 ⟨hne, hr⟩) rest

theorem choose_wrongParty {s : State} {a : Agent} {i : Instr} (hm : mayPerform a i = false) (rest : List Input) :
    choose s [] (.call a i :: rest) = .wrongParty := by
  rw [choose_call rfl, chooseCall, hm, if_neg Bool.false_ne_true]

theorem step_wrongParty {s : State} {a : Agent} {i : Instr} {rest : List Input}
    (hin : s.inbox = .call a i :: rest) (hm : mayPerform a i = false) : step s = .refused .wrongParty := by
  rw [step, hin, choose_wrongParty hm]

/-- Settles O54: the input at the front can happen, so it is the one taken. -/
theorem stepRunsTheDecodedInstruction : Obligations.StepRunsTheDecodedInstruction := by
  constructor
  · intro s bytes more i rest hin hr hd
    exact step_of_run (hin ▸ choose_bytes_run hr hd rfl rest)
  · intro s a i rest hin hm he
    exact step_of_run (hin ▸ choose_call_run hm he rfl rest)

/-! ### The input that is taken -/

/-- A pending input that a step can take, with the instruction it is. -/
def Takes (s : State) (i : Instr) : Input → Prop
  | .bytes bytes => rxEnabled s = true ∧ ∃ more, decode s.rxState bytes = .ok i more
  | .call a j => j = i ∧ mayPerform a i = true ∧ enabled i s = true

/-- Everything a choice of an instruction can be: the first input is taken, or it stays and the choice is made
among the others, with at least as many agents waiting. -/
theorem choose_cons_run {s : State} {waiting : List Agent} {z : Input} {rest inbox : List Input} {i : Instr}
    (h : choose s waiting (z :: rest) = .run i inbox) :
    (Takes s i z ∧ ∃ front, inbox = front ++ rest) ∨
      ∃ waiting' inbox', waiting ⊆ waiting' ∧ choose s waiting' rest = .run i inbox' ∧ inbox = z :: inbox' := by
  have hkeep {waiting' : List Agent} (hsub : waiting ⊆ waiting')
      (hc : keepWaiting z (choose s waiting' rest) = .run i inbox) :
      ∃ waiting' inbox', waiting ⊆ waiting' ∧ choose s waiting' rest = .run i inbox' ∧ inbox = z :: inbox' := by
    obtain ⟨inbox', hrun, heq⟩ := keepWaiting_eq_run hc
    exact ⟨waiting', inbox', hsub, hrun, heq⟩
  cases hw : waiting.contains z.agent with
  | true =>
    rw [choose_later hw] at h
    exact .inr (hkeep (List.Subset.refl _) h)
  | false =>
    cases z with
    | call a j =>
      rw [choose_call (show waiting.contains a = false from hw)] at h
      rcases chooseCall_cases s a j rest (choose s (a :: waiting) rest) with
        ⟨hm, he, hc⟩ | ⟨_, _, hc⟩ | ⟨_, hc⟩ <;> rw [hc] at h
      · cases h
        exact .inl ⟨⟨rfl, hm, he⟩, [], rfl⟩
      · exact .inr (hkeep (List.subset_cons_self _ _) h)
      · cases h
    | bytes bytes =>
      rw [choose, show waiting.contains Agent.link = false from hw, if_neg Bool.false_ne_true] at h
      by_cases hne : bytes = []
      · rw [if_pos hne] at h
        exact .inr (hkeep (List.Subset.refl _) h)
      · rw [if_neg hne] at h
        rcases chooseBytes_cases s bytes rest (choose s (.link :: waiting) rest) with
          ⟨j, more, hr, hd, hc⟩ | hc <;> rw [hc] at h
        · cases h
          refine .inl ⟨⟨hr, more, hd⟩, ?_⟩
          by_cases hmore : more = []
          · exact ⟨[], if_pos hmore⟩
          · exact ⟨[.bytes more], if_neg hmore⟩
        · exact .inr (hkeep (List.subset_cons_self _ _) h)

/-- The instruction that is run is that of a pending input which can happen. -/
theorem choose_run_takes {s : State} {waiting : List Agent} {inbox inbox' : List Input} {i : Instr}
    (h : choose s waiting inbox = .run i inbox') : ∃ z, z ∈ inbox ∧ Takes s i z := by
  induction inbox generalizing waiting inbox' with
  | nil => cases h
  | cons z rest ih =>
    rcases choose_cons_run h with ⟨ht, _⟩ | ⟨_, _, _, hrun, _⟩
    · exact ⟨z, List.mem_cons_self, ht⟩
    · obtain ⟨z', hmem, ht⟩ := ih hrun
      exact ⟨z', List.mem_cons_of_mem _ hmem, ht⟩

/-- What is taken stands before or behind an input of an agent that waits, and that input stays. -/
theorem choose_keeps_later {s : State} {y : Input} {between rest inbox : List Input} {waiting : List Agent}
    {i : Instr} (hw : waiting.contains y.agent = true)
    (h : choose s waiting (between ++ y :: rest) = .run i inbox) :
    (∃ between', inbox = between' ++ y :: rest) ∨ ∃ rest', inbox = between ++ y :: rest' := by
  induction between generalizing waiting inbox with
  | nil =>
    rw [List.nil_append, choose_later hw] at h
    obtain ⟨rest', _, rfl⟩ := keepWaiting_eq_run h
    exact .inr ⟨rest', rfl⟩
  | cons z between ih =>
    rcases choose_cons_run h with ⟨_, front, rfl⟩ | ⟨waiting', inbox', hsub, hrun, rfl⟩
    · exact .inl ⟨front ++ between, (List.append_assoc _ _ _).symm⟩
    · have hw' : waiting'.contains y.agent = true :=
        List.contains_iff_mem.2 (hsub (List.contains_iff_mem.1 hw))
      rcases ih hw' hrun with ⟨between', rfl⟩ | ⟨rest', rfl⟩
      · exact .inl ⟨z :: between', rfl⟩
      · exact .inr ⟨rest', rfl⟩

/-- Settles O55: an input that waits is kept in its place, and the choice goes on with its agent waiting. -/
theorem waitingAgentsDoNotBlockOthers : Obligations.WaitingAgentsDoNotBlockOthers := by
  refine ⟨?_, ?_, ?_, ?_, fun s a i rest hin hm => step_wrongParty hin hm⟩
  · intro s a b i j rest hin hab hma hea hmb heb
    apply step_of_run
    have hw : [a].contains b = false := by simpa using hab.symm
    rw [hin, choose_waiting ((waits_call s a i).2 ⟨hma, hea⟩), Input.agent, choose_call_run hmb heb hw, keepWaiting]
  · intro s bytes a i rest hin hr ha hm he
    apply step_of_run
    obtain ⟨waiting, hsub, hchoose⟩ := choose_bytes_waits hr bytes (.call a i :: rest)
    have hw : waiting.contains a = false := by
      rw [← Bool.not_eq_true, List.contains_iff_mem]
      exact fun hmem => ha (List.mem_singleton.1 (hsub hmem))
    rw [hin, hchoose, choose_call_run hm he hw, keepWaiting]
  · intro s a i j bytes more rest hin ha hm he hr hd
    apply step_of_run
    have hw : [a].contains Agent.link = false := by simpa using ha.symm
    rw [hin, choose_waiting ((waits_call s a i).2 ⟨hm, he⟩), Input.agent, choose_bytes_run hr hd hw, keepWaiting,
      putBack]
  · intro s x y between rest inbox i hin hx hagent hrun
    rw [hin, choose_waiting hx] at hrun
    obtain ⟨inbox', hrun', rfl⟩ := keepWaiting_eq_run hrun
    have hw : [x.agent].contains y.agent = true := by simpa using hagent
    rcases choose_keeps_later hw hrun' with ⟨between', rfl⟩ | ⟨rest', rfl⟩
    · exact .inl ⟨between', rfl⟩
    · exact .inr ⟨rest', rfl⟩

/-! ### Quiescence -/

/-- An event of the link is enabled only where the reader takes bytes (R152). -/
theorem rxEnabled_of_enabled_link {i : Instr} {bytes : List Byte} (hi : linkBytes i = some bytes) {s : State}
    (he : enabled i s = true) : rxEnabled s = true := by
  cases i with
  | sofShortCmd _ _ _ | sofShortRsp _ _ _ | sofShortNtf _ _ _ | sofExtCmd _ _ _ | sofExtRsp _ _ _
  | sofExtNtf _ _ _ | eotCmd _ _ | eotRsp _ _ | eotNtf _ _ | ackCmd _ _ | ackRsp _ _ | ackNtf _ _
  | ctlUnrecognised _ | mtUnrecognised _ _ _ | ctlSof | ctlEot | ctlAck | rxSeek _ =>
    exact rxEnabled_of_atBoundary he
  | mtCommand | mtResponse | mtNotification | lenEsc | rxHdrSeq _ | rxHdrType _ | rxLen0 _ | rxLenHi _
  | rxLenLo _ | rxBody _ | rxCkLo _ | rxCkHi _ =>
    rw [rxEnabled, eq_of_beq he]
  | rxString _ => exact he
  | _ => cases hi

/-- The events of the link are the link's alone (R11). -/
theorem agent_of_link {i : Instr} {bytes : List Byte} (hi : linkBytes i = some bytes) {a : Agent}
    (hm : mayPerform a i = true) : a = .link := by
  cases i with
  | ckSeed | cksum _ | cksumBytes _ | lenEnc _ | lenDec _ | nextSeq | encCmd _ _ | encAck _ | pop | openReader
  | closeReader | sentinel | reset | encAckPair _ _ | ackOf _ | drain => cases hi
  | _ => exact eq_of_beq hm

/-- What is only handed to a caller a producer may ask for (R11). -/
theorem mayPerform_caller {i : Instr} {r : Result} (hi : callerResult i = some r) :
    mayPerform .producer i = true := by
  cases i with
  | ckSeed | cksum _ | cksumBytes _ | lenEnc _ | lenDec _ | encAck _ | encAckPair _ _ | ackOf _ => rfl
  | _ => cases hi

/-- In a quiescent state only events of the other agents can be taken (R243). -/
theorem quiescent_takes {s : State} (hq : Quiescent s) {i : Instr} {z : Input} (hz : z ∈ s.inbox)
    (ht : Takes s i z) :
    mayPerform .owner i = true ∨ mayPerform .consumer i = true ∨ mayPerform .producer i = true := by
  obtain ⟨hsentinel, hnone⟩ := hq
  cases z with
  | bytes bytes =>
    obtain ⟨hr, more, hd⟩ := ht
    have hempty : bytes = [] := by simpa [offersByte] using hnone hr _ hz
    rw [hempty] at hd
    cases hd
  | call a j =>
    obtain ⟨rfl, hm, he⟩ := ht
    cases j using instr_kinds with
    | link i bytes hi =>
      obtain rfl := agent_of_link hi hm
      left
      simpa [offersByte] using hnone (rxEnabled_of_enabled_link hi he) _ hz
    | caller i r hi => exact .inr (.inr (mayPerform_caller hi))
    | nextSeq => cases hm
    | encCmd messageId payload => exact .inr (.inr rfl)
    | pop | drain => exact .inr (.inl rfl)
    | openReader | closeReader | reset => exact .inl rfl
    | sentinel => cases hsentinel.symm.trans he

theorem choose_idle_of_bytes {s : State} {bytes : List Byte} (hr : rxEnabled s = false) :
    choose s [] [.bytes bytes] = .idle := by
  obtain ⟨waiting, _, hchoose⟩ := choose_bytes_waits hr bytes []
  rw [hchoose, choose_nil, keepWaiting]

theorem step_idle_next {s : State} (h : choose s [] s.inbox = .idle) (hs : sentinelEnabled s = false) :
    step s = .next s := by
  rw [step_of_idle h, hs, if_neg Bool.false_ne_true]

theorem sentinelEnabled_eq_false {s : State} (h : ¬(s.rxState = .seek ∧ s.openFlag = false)) :
    sentinelEnabled s = false :=
  Bool.eq_false_iff.2 (mt (sentinelEnabled_iff s).1 h)

/-- Settles O56. -/
theorem idleStepPerformsOnlyTheSentinel : Obligations.IdleStepPerformsOnlyTheSentinel := by
  intro s
  refine ⟨fun hidle hno => ?_, fun hq => ⟨fun i inbox hrun => ?_, fun hidle => ?_⟩,
    fun hidle hseek hclear => ?_, fun bytes hin hr hopen => ?_⟩
  · exact step_idle_next hidle (sentinelEnabled_eq_false hno)
  · obtain ⟨z, hz, ht⟩ := choose_run_takes hrun
    exact quiescent_takes hq hz ht
  · exact step_idle_next hidle hq.1
  · rw [step_of_idle hidle, (sentinelEnabled_iff s).2 ⟨hseek, hclear⟩, if_pos rfl]
  · refine step_idle_next (by rw [hin, choose_idle_of_bytes hr]) (sentinelEnabled_eq_false ?_)
    rintro ⟨hseek, hclear⟩
    cases (hopen hseek).symm.trans hclear

/-! ### The sequence counter (R130) -/

/-- No step takes a call of NEXT_SEQ: no agent may perform it, and no bytes decode to it (log 15). -/
theorem not_takes_nextSeq (s : State) (z : Input) : ¬Takes s .nextSeq z := by
  intro ht
  cases z with
  | bytes bytes =>
    obtain ⟨_, more, hd⟩ := ht
    obtain ⟨_, _, henc, _⟩ := decodedCandidatesAreTheirBytes _ _ _ _ hd
    cases henc
  | call a j =>
    obtain ⟨_, hm, _⟩ := ht
    cases hm

/-- The byte behind the control byte of a command is its sequence id (R131). -/
theorem getElem_frameBytes_command (seq : Byte) (field : List Byte) (messageId : Byte) (payload : List Byte) :
    (frameBytes 0x02#8 (commandBody seq field messageId payload))[1]? = some seq := rfl

/-- Settles O60: of the instructions that touch the counter, NEXT_SEQ is never taken, and the other two are the
cases of the statement. -/
theorem onlyEncCmdAndResetMoveTheCounter : Obligations.OnlyEncCmdAndResetMoveTheCounter := by
  refine ⟨fun s t h => ?_, fun s a rest hin => step_wrongParty hin rfl⟩
  have hother {i : Instr} {u : State} (hu : u.seqCtr = s.seqCtr) (hexec : exec i u = .next t)
      (hnext : i ≠ .nextSeq) (henc : ∀ messageId payload, i ≠ .encCmd messageId payload) (hreset : i ≠ .reset) :
      t.seqCtr = s.seqCtr :=
    ((receiveSideIgnoresTheCounter i u t 0 hexec hnext henc hreset).1).trans hu
  rcases step_cases s with ⟨i, inbox, hrun, he⟩ | ⟨_, he⟩ | ⟨_, _, he⟩ | ⟨_, _, he⟩ <;> rw [he] at h
  · by_cases hreset : i = .reset
    · subst hreset
      cases h
      exact .inr (.inr ⟨inbox, hrun, rfl⟩)
    by_cases henc : ∃ messageId payload, i = .encCmd messageId payload
    · obtain ⟨messageId, payload, rfl⟩ := henc
      obtain ⟨field, rfl⟩ | rfl := execEncCmd_next_cases h
      · exact .inr (.inl ⟨messageId, payload, inbox, _, hrun, advanceSeq_seqCtr _, rfl,
          getElem_frameBytes_command _ _ _ _⟩)
      · exact .inl rfl
    · have hnext : i ≠ .nextSeq := by
        rintro rfl
        obtain ⟨z, _, ht⟩ := choose_run_takes hrun
        exact not_takes_nextSeq s z ht
      exact .inl (hother (u := { s with inbox := inbox }) rfl h hnext
        (fun messageId payload hi => henc ⟨messageId, payload, hi⟩) hreset)
  · cases h
  · exact .inl (hother rfl h (by decide) (fun _ _ hi => by cases hi) (by decide))
  · cases h
    exact .inl rfl

end Sys2Proof.Machine
end

section
/-! The invariants of R33: they hold after reset, every instruction completes from a state that has them, and the
state after it has them again. A lemma for each group of reader states says what is to be shown there; every
other clause is about other states. -/

namespace Sys2Proof.Machine

/-! ### What the invariants ask of a state -/

/-- The clauses about the queue and the buffer, the same in every reader state. -/
structure StoreInv (queue : List QueueEntry) (buf : Memory) : Prop where
  queue_bound : queue.length ≤ params.queueCap
  buf_wf : Memory.wf buf = true
  queue_valid : ∀ f, .frameEntry f ∈ queue → FrameValid f

theorem Inv.store {s : State} (h : Inv s) : StoreInv s.queue s.buf := ⟨h.queue_bound, h.buf_wf, h.queue_valid⟩

theorem Inv.noFault {s : State} (h : Inv s) (hs : s.rxState ≠ .fault) : s.faultOverflow = false :=
  Bool.eq_false_iff.2 (mt h.fault_iff.1 hs)

/-- The running checksum and its parity are those of a byte string (R33 (f)). -/
def Summed (s : State) (body : List Byte) : Prop := accRun 0x5725#16 false body = (s.rAcc, s.rPar)

theorem summed_iff (s : State) (body : List Byte) :
    Summed s body ↔ s.rAcc = cksum body ∧ s.rPar = (body.length % 2 == 1) := by
  rw [Summed, accRun_seed, Prod.mk.injEq, eq_comm, @eq_comm _ (body.length % 2 == 1)]

/-- A byte folded in is one more byte summed (R151). -/
theorem Summed.snoc {s t : State} {body : List Byte} (h : Summed s body) {b : Byte}
    (hacc : t.rAcc = accStep s.rAcc s.rPar b) (hpar : t.rPar = !s.rPar) : Summed t (body ++ [b]) := by
  rw [Summed] at h
  rw [Summed, accRun_append, h, accRun_cons, accRun_nil, hacc, hpar]

/-- What has been consumed of the frame, and that it is summed. -/
theorem Inv.body {s : State} (h : Inv s) (hs : inFrame s = true) :
    ∃ body, BodySoFar s body ∧ Summed s body := by
  obtain ⟨body, hbody, hsum⟩ := h.checksum_so_far hs
  exact ⟨body, hbody, (summed_iff s body).2 hsum⟩

/-- Outside a frame the clauses about a candidate say nothing. -/
theorem inv_idle {t : State} (hidle : inFrame t = false) (hstore : StoreInv t.queue t.buf)
    (hfault : t.faultOverflow = true ↔ t.rxState = .fault)
    (hclosed : t.rxState = .closed → t.openFlag = false) : Inv t where
  fault_iff := hfault
  queue_bound := hstore.queue_bound
  body_range := fun h => by simp [inFrame, h] at hidle
  length_states := by rintro (h | h | h | h) <;> simp [inFrame, h] at hidle
  control_known := fun h => by cases hidle.symm.trans h
  type_known := fun h => by cases hidle.symm.trans h
  checksum_so_far := fun h => by cases hidle.symm.trans h
  closed_flag := hclosed
  no_length := fun h => by cases hidle.symm.trans h
  count_start := by rintro (h | h | h | h | h) <;> simp [inFrame, h] at hidle
  length_start := by rintro (h | h) <;> simp [inFrame, h] at hidle
  count_end := by rintro (h | h) <;> simp [inFrame, h] at hidle
  written := by rintro (h | h | h) <;> simp [inFrame, h] at hidle
  buf_wf := hstore.buf_wf
  queue_valid := hstore.queue_valid

theorem inv_seek {t : State} (hs : t.rxState = .seek) (hstore : StoreInv t.queue t.buf) (hf : t.faultOverflow = false) :
    Inv t :=
  inv_idle (by rw [inFrame, hs]) hstore (by simp [hs, hf]) (by simp [hs])

theorem inv_closed {t : State} (hs : t.rxState = .closed) (hstore : StoreInv t.queue t.buf)
    (hf : t.faultOverflow = false) (ho : t.openFlag = false) : Inv t :=
  inv_idle (by rw [inFrame, hs]) hstore (by simp [hs, hf]) fun _ => ho

theorem inv_fault {t : State} (hs : t.rxState = .fault) (hstore : StoreInv t.queue t.buf)
    (hf : t.faultOverflow = true) : Inv t :=
  inv_idle (by rw [inFrame, hs]) hstore (by simp [hs, hf]) (by simp [hs])

section
variable {t : State} (hstore : StoreInv t.queue t.buf) (hf : t.faultOverflow = false) {body : List Byte}
  (hbody : BodySoFar t body) (hsum : Summed t body)
include hstore hf hbody hsum

theorem inv_header (hs : t.rxState = .hdrSeq ∨ t.rxState = .hdrType) (hctl : isControl t.rCtl = true)
    (hlen : t.rLen = 0#16) (hcnt : t.rCnt = 0) : Inv t where
  fault_iff := by rcases hs with hs | hs <;> simp [hs, hf]
  queue_bound := hstore.queue_bound
  body_range := by rcases hs with hs | hs <;> simp [hs]
  length_states := by rcases hs with hs | hs <;> simp [hs]
  control_known := fun _ => hctl
  type_known := by rcases hs with hs | hs <;> simp [hs]
  checksum_so_far := fun _ => ⟨body, hbody, (summed_iff t body).1 hsum⟩
  closed_flag := by rcases hs with hs | hs <;> simp [hs]
  no_length := fun _ _ => hlen
  count_start := fun _ => hcnt
  length_start := fun _ => hlen
  count_end := by rcases hs with hs | hs <;> simp [hs]
  written := by rcases hs with hs | hs <;> simp [hs]
  buf_wf := hstore.buf_wf
  queue_valid := hstore.queue_valid

theorem inv_length (hs : t.rxState = .len0 ∨ t.rxState = .lenHi ∨ t.rxState = .lenLo)
    (hctl : t.rCtl = params.ctlSof) (htype : isMessageType t.rMtype = true) (hcnt : t.rCnt = 0) : Inv t where
  fault_iff := by rcases hs with hs | hs | hs <;> simp [hs, hf]
  queue_bound := hstore.queue_bound
  body_range := by rcases hs with hs | hs | hs <;> simp [hs]
  length_states := fun _ => hctl
  control_known := fun _ => hctl ▸ rfl
  type_known := fun _ _ _ => htype
  checksum_so_far := fun _ => ⟨body, hbody, (summed_iff t body).1 hsum⟩
  closed_flag := by rcases hs with hs | hs | hs <;> simp [hs]
  no_length := fun _ h => absurd hctl h
  count_start := fun _ => hcnt
  length_start := by rcases hs with hs | hs | hs <;> simp [hs]
  count_end := by rcases hs with hs | hs | hs <;> simp [hs]
  written := by rcases hs with hs | hs | hs <;> simp [hs]
  buf_wf := hstore.buf_wf
  queue_valid := hstore.queue_valid

theorem inv_body (hs : t.rxState = .body) (hctl : t.rCtl = params.ctlSof)
    (htype : isMessageType t.rMtype = true) (hrange : t.rCnt.toNat < t.rLen.toNat)
    (hwritten : ∀ k, k < t.rCnt.toNat → (readCell k t.buf).isSome = true) : Inv t where
  fault_iff := by simp [hs, hf]
  queue_bound := hstore.queue_bound
  body_range := fun _ => ⟨Nat.lt_of_le_of_lt (Nat.zero_le _) hrange, hrange⟩
  length_states := fun _ => hctl
  control_known := fun _ => hctl ▸ rfl
  type_known := fun _ _ _ => htype
  checksum_so_far := fun _ => ⟨body, hbody, (summed_iff t body).1 hsum⟩
  closed_flag := by simp [hs]
  no_length := fun _ h => absurd hctl h
  count_start := by simp [hs]
  length_start := by simp [hs]
  count_end := by simp [hs]
  written := fun _ => hwritten
  buf_wf := hstore.buf_wf
  queue_valid := hstore.queue_valid

theorem inv_checksum (hs : t.rxState = .ckLo ∨ t.rxState = .ckHi) (hctl : isControl t.rCtl = true)
    (htype : isMessageType t.rMtype = true) (hnone : t.rCtl ≠ params.ctlSof → t.rLen = 0#16)
    (hcnt : t.rCnt = t.rLen) (hwritten : ∀ k, k < t.rCnt.toNat → (readCell k t.buf).isSome = true) : Inv t where
  fault_iff := by rcases hs with hs | hs <;> simp [hs, hf]
  queue_bound := hstore.queue_bound
  body_range := by rcases hs with hs | hs <;> simp [hs]
  length_states := by rcases hs with hs | hs <;> simp [hs]
  control_known := fun _ => hctl
  type_known := fun _ _ _ => htype
  checksum_so_far := fun _ => ⟨body, hbody, (summed_iff t body).1 hsum⟩
  closed_flag := by rcases hs with hs | hs <;> simp [hs]
  no_length := fun _ => hnone
  count_start := by rcases hs with hs | hs <;> simp [hs]
  length_start := by rcases hs with hs | hs <;> simp [hs]
  count_end := fun _ => hcnt
  written := fun _ => hwritten
  buf_wf := hstore.buf_wf
  queue_valid := hstore.queue_valid

end

/-- A state that differs in the counter, the outputs and the inputs only, its queue in order. -/
theorem Inv.withOutputs {s : State} (h : Inv s) {ctr : Byte} {queue : List QueueEntry} {event : EventCode}
    {log : List EventCode} {result : Result} {delivered : List QueueEntry} {inbox : List Input}
    (hbound : queue.length ≤ params.queueCap) (hvalid : ∀ f, .frameEntry f ∈ queue → FrameValid f) :
    Inv { s with
      seqCtr := ctr, queue := queue, rxEvent := event, eventLog := log, result := result,
      delivered := delivered, inbox := inbox } :=
  { h with queue_bound := hbound, queue_valid := hvalid }

/-- Settles O58: after power-on the reader is closed and nothing is stored. -/
theorem resetHasTheInvariants : Obligations.ResetHasTheInvariants :=
  inv_closed rfl ⟨Nat.zero_le _, reset_buf_wf, fun _ hf => absurd hf List.not_mem_nil⟩ rfl rfl

end Sys2Proof.Machine
end

section
/-! Every instruction keeps the invariants and none faults: one byte event in each reader state, then a run of
bytes, then the other instructions, then the step (R33). -/

namespace Sys2Proof.Machine

/-! ### What the consumed bytes are, state by state -/

section
variable {s : State} (h : Inv s)
include h

theorem Inv.summed_hdrSeq (hs : s.rxState = .hdrSeq) : Summed s [] := by
  obtain ⟨body, hbody, hsum⟩ := h.body (by rw [inFrame, hs])
  simp only [BodySoFar, hs] at hbody
  exact hbody ▸ hsum

theorem Inv.summed_hdrType (hs : s.rxState = .hdrType) : Summed s [s.rSeq] := by
  obtain ⟨body, hbody, hsum⟩ := h.body (by rw [inFrame, hs])
  simp only [BodySoFar, hs] at hbody
  exact hbody ▸ hsum

theorem Inv.summed_len0 (hs : s.rxState = .len0) : Summed s [s.rSeq, s.rMtype] := by
  obtain ⟨body, hbody, hsum⟩ := h.body (by rw [inFrame, hs])
  simp only [BodySoFar, hs] at hbody
  exact hbody ▸ hsum

theorem Inv.summed_lenHi (hs : s.rxState = .lenHi) : Summed s [s.rSeq, s.rMtype, params.lenEsc] := by
  obtain ⟨body, hbody, hsum⟩ := h.body (by rw [inFrame, hs])
  simp only [BodySoFar, hs] at hbody
  exact hbody ▸ hsum

theorem Inv.summed_lenLo (hs : s.rxState = .lenLo) :
    Summed s [s.rSeq, s.rMtype, params.lenEsc, hiByte s.rLen] := by
  obtain ⟨body, hbody, hsum⟩ := h.body (by rw [inFrame, hs])
  simp only [BodySoFar, hs] at hbody
  exact hbody ▸ hsum

/-- From the region on the consumed bytes are header, length field and what is stored. -/
theorem Inv.summed_region (hs : s.rxState = .body ∨ s.rxState = .ckLo ∨ s.rxState = .ckHi) :
    ∃ field, SpellsLength s.rCtl s.rLen field ∧
      Summed s (coveredBytes s.rSeq s.rMtype field (bufSlice s 0 s.rCnt.toNat)) := by
  rcases hs with hs | hs | hs <;>
  · obtain ⟨body, hbody, hsum⟩ := h.body (by rw [inFrame, hs])
    simp only [BodySoFar, hs] at hbody
    obtain ⟨field, hfield, rfl⟩ := hbody
    exact ⟨field, hfield, hsum⟩

end

/-! ### The length is known -/

theorem spellsLength_sof {len : Word} {field : List Byte} (h : lenDec field = some (len, field.length)) :
    SpellsLength params.ctlSof len field := by
  rw [SpellsLength, if_pos rfl]
  exact h

theorem spellsLength_other {ctl : Byte} (h : ctl ≠ params.ctlSof) (len : Word) : SpellsLength ctl len [] := by
  rw [SpellsLength, if_neg h]

/-- From the region on, what has been consumed is header, length field and the stored bytes. -/
theorem bodySoFar_region {t : State} (hs : t.rxState = .body ∨ t.rxState = .ckLo ∨ t.rxState = .ckHi)
    {field region : List Byte} (hfield : SpellsLength t.rCtl t.rLen field)
    (hregion : bufSlice t 0 t.rCnt.toNat = region) :
    BodySoFar t (coveredBytes t.rSeq t.rMtype field region) := by
  subst hregion
  rcases hs with hs | hs | hs <;> simp only [BodySoFar, hs] <;> exact ⟨field, hfield, rfl⟩

/-- A StartOfFrame candidate whose length has just been read, empty or not. -/
theorem inv_afterLength {t : State} (hstore : StoreInv t.queue t.buf) (hf : t.faultOverflow = false)
    (hs : t.rxState = afterLength t.rLen) (hctl : t.rCtl = params.ctlSof)
    (htype : isMessageType t.rMtype = true) (hcnt : t.rCnt = 0) {field : List Byte}
    (hfield : lenDec field = some (t.rLen, field.length))
    (hsum : Summed t (coveredBytes t.rSeq t.rMtype field [])) : Inv t := by
  have hslice : bufSlice t 0 t.rCnt.toNat = [] := by rw [hcnt]; rfl
  have hspells : SpellsLength t.rCtl t.rLen field := hctl ▸ spellsLength_sof hfield
  have hwritten (k : Nat) (hk : k < t.rCnt.toNat) : (readCell k t.buf).isSome = true := by
    rw [hcnt] at hk
    exact absurd hk (Nat.not_lt_zero k)
  by_cases hzero : t.rLen = 0#16
  · rw [afterLength, if_pos hzero] at hs
    exact inv_checksum hstore hf (bodySoFar_region (.inr (.inl hs)) hspells hslice) hsum (.inl hs) (hctl ▸ rfl)
      htype (fun _ => hzero) (hcnt.trans hzero.symm) hwritten
  · rw [afterLength, if_neg hzero] at hs
    have hpos : t.rLen.toNat ≠ 0 := fun h0 => hzero (BitVec.eq_of_toNat_eq h0)
    exact inv_body hstore hf (bodySoFar_region (.inl hs) hspells hslice) hsum hs hctl htype
      (by rw [hcnt]; exact Nat.pos_of_ne_zero hpos) hwritten

/-! ### The region (R159) -/

/-- The state after a byte of the region. -/
def afterBodyByte (b : Byte) (s : State) : State :=
  present .none (countRegionByte { accumulate b s with buf := writeCell s.rCnt.toNat b s.buf })

theorem afterBodyByte_count {s : State} (h : s.rCnt.toNat < 65535) (b : Byte) :
    (afterBodyByte b s).rCnt.toNat = s.rCnt.toNat + 1 := by
  change (s.rCnt + 1#16).toNat = _
  rw [BitVec.toNat_add]
  exact Nat.mod_eq_of_lt (by simp; omega)

/-- The counted bytes of the buffer are those before and the byte itself. -/
theorem bufSlice_afterBodyByte {s : State} (h : s.rCnt.toNat < 65535) (b : Byte) :
    bufSlice (afterBodyByte b s) 0 (afterBodyByte b s).rCnt.toNat = bufSlice s 0 s.rCnt.toNat ++ [b] := by
  have hbuf : (afterBodyByte b s).buf = writeCell s.rCnt.toNat b s.buf := rfl
  rw [afterBodyByte_count h, bufSlice_succ, Nat.zero_add, bufRead_stored hbuf,
    bufSlice_congr fun k hk => bufRead_notStored hbuf rfl (by omega)]

/-- Every counted byte has been written. -/
theorem written_afterBodyByte {s : State} (hcnt : s.rCnt.toNat < 65535)
    (h : ∀ k, k < s.rCnt.toNat → (readCell k s.buf).isSome = true) (b : Byte) (k : Nat)
    (hk : k < (afterBodyByte b s).rCnt.toNat) : (readCell k (afterBodyByte b s).buf).isSome = true := by
  change (readCell k (writeCell s.rCnt.toNat b s.buf)).isSome = true
  rw [afterBodyByte_count hcnt] at hk
  by_cases hlast : k = s.rCnt.toNat
  · rw [hlast, readCell_writeCell_same, Option.isSome_some]
  · rw [readCell_writeCell_other hlast]
    exact h k (by omega)

/-! ### The frame that is queued (R34, R162) -/

theorem bufSlice_zero_succ (s : State) (n : Nat) : bufSlice s 0 (n + 1) = bufRead s 0 :: bufSlice s 1 n := by
  simp only [bufSlice, List.range_succ_eq_map, List.map_cons, List.map_map, Nat.zero_add]
  refine congrArg (_ :: ·) (List.map_congr_left fun k _ => ?_)
  rw [Function.comp, Nat.add_comm 1 k]

/-- A push with room keeps the queue in order, if what is pushed is no invalid frame. -/
theorem StoreInv.push {queue : List QueueEntry} {buf : Memory} (h : StoreInv queue buf)
    (hroom : queue.length ≠ 100) {e : QueueEntry} (he : ∀ f, e = .frameEntry f → FrameValid f) :
    StoreInv (queue ++ [e]) buf where
  queue_bound := by
    have hbound := h.queue_bound
    rw [params_queueCap] at hbound ⊢
    rw [List.length_append, List.length_singleton]
    omega
  buf_wf := h.buf_wf
  queue_valid := fun f hf => by
    rcases List.mem_append.1 hf with hold | hnew
    · exact h.queue_valid f hold
    · exact he f (List.mem_singleton.1 hnew).symm

/-- At the last checksum byte the registers and the buffer make a valid frame, but for the degenerate one. -/
theorem frameValid_makeFrame {s : State} (h : Inv s) (hs : s.rxState = .ckHi)
    (hne : ¬(s.rCtl = 0x02#8 ∧ s.rLen = 0#16)) : FrameValid (makeFrame s) := by
  have hctl := h.control_known (by rw [inFrame, hs])
  have htype := h.type_known (by rw [inFrame, hs]) (by rw [hs]; decide) (by rw [hs]; decide)
  obtain ⟨field, hfield, hsum⟩ := h.summed_region (.inr (.inr hs))
  rw [h.count_end (.inr hs)] at hsum
  have hck := ((summed_iff _ _).1 hsum).1
  by_cases hsof : s.rCtl = params.ctlSof
  · have hlen : s.rLen ≠ 0#16 := fun h0 => hne ⟨hsof, h0⟩
    obtain ⟨n, hn⟩ := Nat.exists_eq_succ_of_ne_zero fun h0 => hlen (BitVec.eq_of_toNat_eq h0)
    have hframe : makeFrame s =
        ⟨s.rCtl, s.rSeq, s.rMtype, s.rLen, some (bufRead s 0), bufSlice s 1 n, s.rAcc⟩ := by
      rw [makeFrame, if_pos hsof, if_pos hsof, hn, Nat.succ_sub_one]
    rw [hframe]
    refine ⟨?_, field, hfield, ?_⟩
    · simp only [Frame.wellFormed, hctl, htype, if_pos hsof, bufSlice_length, hn, Option.isSome_some]
      simpa using hlen
    · rw [hck, hn, bufSlice_zero_succ]
      rfl
  · have hlen : s.rLen = 0#16 := h.no_length (by rw [inFrame, hs]) hsof
    have hframe : makeFrame s = ⟨s.rCtl, s.rSeq, s.rMtype, s.rLen, none, [], s.rAcc⟩ := by
      rw [makeFrame, if_neg hsof, if_neg hsof]
    rw [hframe]
    refine ⟨?_, field, hfield, ?_⟩
    · simp only [Frame.wellFormed, hctl, htype, if_neg hsof, hlen]
      rfl
    · rw [hck, hlen]
      rfl

/-! ### One byte event in each state (R153 to R161) -/

section
variable {s : State} (h : Inv s) (b : Byte)
include h

theorem rxByte_seek_inv (hs : s.rxState = .seek) : ∃ t, rxByte b s = .next t ∧ Inv t := by
  have hf := h.noFault (by rw [hs]; decide)
  cases ho : s.openFlag with
  | false => exact ⟨s, rxByte_waits (by rw [rxEnabled, hs, ho]) b, h⟩
  | true =>
    refine ⟨_, rxByte_seek hs ho b, ?_⟩
    cases hb : isControl b with
    | true => exact inv_header (body := []) h.store hf rfl rfl (.inl rfl) hb rfl rfl
    | false => exact inv_seek hs h.store hf

theorem rxByte_hdrSeq_inv (hs : s.rxState = .hdrSeq) : ∃ t, rxByte b s = .next t ∧ Inv t := by
  refine ⟨_, rxByte_hdrSeq hs b, ?_⟩
  exact inv_header (body := [b]) h.store (h.noFault (by rw [hs]; decide)) rfl
    ((h.summed_hdrSeq hs).snoc rfl rfl) (.inr rfl) (h.control_known (by rw [inFrame, hs]))
    (h.length_start (.inl hs)) (h.count_start (.inl hs))

theorem rxByte_hdrType_inv (hs : s.rxState = .hdrType) : ∃ t, rxByte b s = .next t ∧ Inv t := by
  have hf := h.noFault (by rw [hs]; decide)
  have hcnt := h.count_start (.inr (.inl hs))
  have hlen := h.length_start (.inr hs)
  refine ⟨_, rxByte_hdrType hs b, ?_⟩
  cases hb : isMessageType b with
  | false => exact inv_seek rfl h.store hf
  | true =>
    have hsum := (h.summed_hdrType hs).snoc (t := present .none (goTo (afterType s.rCtl)
      (accumulate b { s with rMtype := b }))) (b := b) rfl rfl
    by_cases hctl : s.rCtl = params.ctlSof
    · have hstate : afterType s.rCtl = .len0 := if_pos hctl
      rw [if_pos rfl, hstate]
      exact inv_length (body := [s.rSeq, b]) h.store hf rfl hsum (.inl rfl) hctl hb hcnt
    · have hstate : afterType s.rCtl = .ckLo := if_neg hctl
      have hslice : bufSlice s 0 s.rCnt.toNat = [] := by rw [hcnt]; rfl
      rw [if_pos rfl, hstate]
      exact inv_checksum (body := [s.rSeq, b]) h.store hf
        ⟨[], spellsLength_other hctl _, congrArg (fun region => s.rSeq :: b :: region) hslice.symm⟩ hsum
        (.inl rfl) (h.control_known (by rw [inFrame, hs])) hb (fun _ => hlen) (hcnt.trans hlen.symm)
        (fun k hk => by
          have hk' : k < s.rCnt.toNat := hk
          rw [hcnt] at hk'
          exact absurd hk' (Nat.not_lt_zero k))

theorem rxByte_len0_inv (hs : s.rxState = .len0) : ∃ t, rxByte b s = .next t ∧ Inv t := by
  have hf := h.noFault (by rw [hs]; decide)
  have hctl := h.length_states (.inl hs)
  have htype := h.type_known (by rw [inFrame, hs]) (by rw [hs]; decide) (by rw [hs]; decide)
  have hcnt := h.count_start (.inr (.inr (.inl hs)))
  refine ⟨_, rxByte_len0 hs b, ?_⟩
  by_cases hb : b = 0x82#8
  · rw [if_pos hb]
    exact inv_length (body := [s.rSeq, s.rMtype, b]) h.store hf (by rw [hb]; rfl)
      ((h.summed_len0 hs).snoc rfl rfl) (.inr (.inl rfl)) hctl htype hcnt
  · rw [if_neg hb]
    exact inv_afterLength (field := [b]) h.store hf rfl hctl htype hcnt (lenDec_short hb [])
      ((h.summed_len0 hs).snoc rfl rfl)

theorem rxByte_lenHi_inv (hs : s.rxState = .lenHi) : ∃ t, rxByte b s = .next t ∧ Inv t := by
  refine ⟨_, rxByte_lenHi hs b, ?_⟩
  exact inv_length (body := [s.rSeq, s.rMtype, params.lenEsc, b]) h.store (h.noFault (by rw [hs]; decide))
    (congrArg (fun hi => [s.rSeq, s.rMtype, params.lenEsc, hi]) (hiByte_word b 0x00).symm)
    ((h.summed_lenHi hs).snoc rfl rfl) (.inr (.inr rfl)) (h.length_states (.inr (.inl hs)))
    (h.type_known (by rw [inFrame, hs]) (by rw [hs]; decide) (by rw [hs]; decide))
    (h.count_start (.inr (.inr (.inr (.inl hs)))))

theorem rxByte_lenLo_inv (hs : s.rxState = .lenLo) : ∃ t, rxByte b s = .next t ∧ Inv t := by
  refine ⟨_, rxByte_lenLo hs b, ?_⟩
  exact inv_afterLength (field := [params.lenEsc, hiByte s.rLen, b]) h.store (h.noFault (by rw [hs]; decide)) rfl
    (h.length_states (.inr (.inr (.inl hs))))
    (h.type_known (by rw [inFrame, hs]) (by rw [hs]; decide) (by rw [hs]; decide))
    (h.count_start (.inr (.inr (.inr (.inr hs))))) (lenDec_ext (hiByte s.rLen) b [])
    ((h.summed_lenLo hs).snoc rfl rfl)

/-- The count stays inside the buffer, and the stored byte is the last of those counted (R159). -/
theorem rxByte_body_inv (hs : s.rxState = .body) : ∃ t, rxByte b s = .next t ∧ Inv t := by
  have hf := h.noFault (by rw [hs]; decide)
  have hctl := h.length_states (.inr (.inr (.inr hs)))
  have htype := h.type_known (by rw [inFrame, hs]) (by rw [hs]; decide) (by rw [hs]; decide)
  obtain ⟨_, hrange⟩ := h.body_range hs
  have hcnt : s.rCnt.toNat < 65535 := by
    have hbound := s.rLen.isLt
    omega
  obtain ⟨field, hfield, hsum⟩ := h.summed_region (.inl hs)
  refine ⟨afterBodyByte b s, rxByte_body hs hcnt b, ?_⟩
  have hstore : StoreInv s.queue (afterBodyByte b s).buf :=
    ⟨h.queue_bound, writeCell_wf hcnt h.buf_wf b, h.queue_valid⟩
  have hslice := bufSlice_afterBodyByte hcnt b
  have hwritten := written_afterBodyByte hcnt (h.written (.inl hs)) b
  have hsum' : Summed (afterBodyByte b s)
      (coveredBytes s.rSeq s.rMtype field (bufSlice s 0 s.rCnt.toNat ++ [b])) := by
    have hsnoc := hsum.snoc (t := afterBodyByte b s) (b := b) rfl rfl
    rwa [coveredBytes, List.cons_append, List.cons_append, List.append_assoc] at hsnoc
  by_cases hend : s.rCnt + 1#16 = s.rLen
  · have hstate : (afterBodyByte b s).rxState = .ckLo := if_pos hend
    exact inv_checksum hstore hf (bodySoFar_region (.inr (.inl hstate)) hfield hslice) hsum' (.inl hstate)
      (h.control_known (by rw [inFrame, hs])) htype (fun hno => absurd hctl hno) hend hwritten
  · have hstate : (afterBodyByte b s).rxState = .body := if_neg hend
    have hmore : (afterBodyByte b s).rCnt.toNat ≠ s.rLen.toNat := fun he => hend (BitVec.eq_of_toNat_eq he)
    rw [afterBodyByte_count hcnt] at hmore
    exact inv_body hstore hf (bodySoFar_region (.inl hstate) hfield hslice) hsum' hstate hctl htype
      (by rw [afterBodyByte_count hcnt]; exact Nat.lt_of_le_of_ne hrange hmore) hwritten

theorem rxByte_ckLo_inv (hs : s.rxState = .ckLo) : ∃ t, rxByte b s = .next t ∧ Inv t := by
  obtain ⟨field, hfield, hsum⟩ := h.summed_region (.inr (.inl hs))
  refine ⟨_, rxByte_ckLo hs b, ?_⟩
  exact inv_checksum h.store (h.noFault (by rw [hs]; decide)) ⟨field, hfield, rfl⟩ hsum (.inr rfl)
    (h.control_known (by rw [inFrame, hs]))
    (h.type_known (by rw [inFrame, hs]) (by rw [hs]; decide) (by rw [hs]; decide))
    (h.no_length (by rw [inFrame, hs])) (h.count_end (.inl hs)) (h.written (.inr (.inl hs)))

theorem rxByte_ckHi_inv (hs : s.rxState = .ckHi) : ∃ t, rxByte b s = .next t ∧ Inv t := by
  have hf := h.noFault (by rw [hs]; decide)
  by_cases hck : word b s.rCklo = s.rAcc
  · refine ⟨_, rxByte_match hs hck, ?_⟩
    rcases emitCandidate_cases s with ⟨_, _, he⟩ | ⟨_, _, he⟩ | ⟨hne, hroom, he⟩ <;> rw [he]
    · exact inv_seek rfl h.store hf
    · exact inv_fault rfl h.store rfl
    · exact inv_seek rfl (h.store.push hroom fun f hfr => by
        cases hfr
        exact frameValid_makeFrame h hs hne) hf
  · exact ⟨_, rxByte_mismatch hs hck, inv_seek rfl h.store hf⟩

/-- One byte event from a state with the invariants completes, and they hold after it. -/
theorem rxByte_inv : ∃ t, rxByte b s = .next t ∧ Inv t := by
  cases hs : s.rxState with
  | closed | fault => exact ⟨s, rxByte_waits (by rw [rxEnabled, hs]) b, h⟩
  | seek => exact rxByte_seek_inv h b hs
  | hdrSeq => exact rxByte_hdrSeq_inv h b hs
  | hdrType => exact rxByte_hdrType_inv h b hs
  | len0 => exact rxByte_len0_inv h b hs
  | lenHi => exact rxByte_lenHi_inv h b hs
  | lenLo => exact rxByte_lenLo_inv h b hs
  | body => exact rxByte_body_inv h b hs
  | ckLo => exact rxByte_ckLo_inv h b hs
  | ckHi => exact rxByte_ckHi_inv h b hs

end

/-! ### Runs of bytes and the other instructions -/

theorem Inv.withInbox {s : State} (h : Inv s) (inbox : List Input) : Inv { s with inbox := inbox } :=
  h.withOutputs h.queue_bound h.queue_valid

theorem deliver_inv {s : State} (h : Inv s) (bytes : List Byte) : ∃ t, deliver bytes s = .next t ∧ Inv t := by
  induction bytes generalizing s with
  | nil => exact ⟨s, rfl, h⟩
  | cons b rest ih =>
    cases hr : rxEnabled s with
    | true =>
      obtain ⟨u, hu, hinv⟩ := rxByte_inv h b
      rw [deliver_cons hr hu]
      exact ih hinv
    | false => exact ⟨_, deliver_waits hr b rest, h.withInbox _⟩

theorem Inv.popEntries {s : State} (h : Inv s) (n : Nat) : Inv (popEntries n s) :=
  h.withOutputs (Nat.le_trans (List.drop_sublist n s.queue).length_le h.queue_bound)
    fun f hf => h.queue_valid f (List.mem_of_mem_drop hf)

/-- The sentinel closes a reader whose flag is clear, or takes the exception. -/
theorem exec_sentinel_inv {s : State} (h : Inv s) : ∃ t, exec .sentinel s = .next t ∧ Inv t := by
  rw [exec_sentinel]
  cases hen : sentinelEnabled s with
  | false => exact ⟨s, rfl, h⟩
  | true =>
    obtain ⟨hseek, hclear⟩ := (sentinelEnabled_iff s).1 hen
    refine ⟨_, rfl, ?_⟩
    rcases push_cases .sentinel (fun s => present .sentinel (goTo .closed s)) s with ⟨hroom, hp⟩ | ⟨_, hp⟩ <;>
      rw [hp]
    · have hf := h.noFault (by rw [hseek]; decide)
      exact inv_closed rfl (h.store.push hroom fun _ hfr => by cases hfr) hf hclear
    · exact inv_fault rfl h.store rfl

/-- The flag is clear in CLOSED after `CLOSE` in any state. -/
theorem Inv.clearFlag {s : State} (h : Inv s) : Inv { s with openFlag := false } :=
  { h with closed_flag := fun _ => rfl }

/-- Every instruction completes from a state with the invariants, and they hold after it. -/
theorem exec_inv {s : State} (h : Inv s) (i : Instr) : ∃ t, exec i s = .next t ∧ Inv t := by
  have hgive (r : Result) : Inv (give r s) := h.withOutputs h.queue_bound h.queue_valid
  have hdraw (r : Result) : Inv (give r (advanceSeq s)) := h.withOutputs h.queue_bound h.queue_valid
  cases i using instr_kinds with
  | link i bytes hi =>
    rcases exec_link_cases hi s with he | he <;> rw [he]
    · exact deliver_inv h bytes
    · exact ⟨s, rfl, h⟩
  | caller i r hi => exact ⟨_, exec_caller hi s, hgive r⟩
  | nextSeq => exact ⟨_, exec_nextSeq s, hdraw _⟩
  | encCmd messageId payload =>
    rw [exec_encCmd]
    rcases execEncCmd_cases messageId payload s with ⟨_, field, _, he⟩ | ⟨_, he⟩ <;> rw [he]
    · exact ⟨_, rfl, hdraw _⟩
    · exact ⟨_, rfl, hgive _⟩
  | pop =>
    rw [exec_pop]
    cases !s.queue.isEmpty with
    | true => exact ⟨_, rfl, h.popEntries 1⟩
    | false => exact ⟨s, rfl, h⟩
  | drain => exact ⟨_, exec_drain s, h.popEntries _⟩
  | openReader =>
    by_cases hc : s.rxState = .closed
    · exact ⟨_, (openStartsTheReader s).1 hc, inv_seek rfl h.store (h.noFault (by rw [hc]; decide))⟩
    · exact ⟨s, (openStartsTheReader s).2 hc, h⟩
  | closeReader => exact ⟨_, closeOnlyClearsTheFlag s, h.clearFlag⟩
  | sentinel => exact exec_sentinel_inv h
  | reset =>
    exact ⟨_, exec_reset s,
      inv_closed rfl ⟨Nat.zero_le _, rfl, fun _ hf => absurd hf List.not_mem_nil⟩ rfl rfl⟩

/-- A step from a state with the invariants is refused, or completes with a state that has them. -/
theorem step_inv {s : State} (h : Inv s) :
    step s = .refused .wrongParty ∨ ∃ t, step s = .next t ∧ Inv t := by
  rcases step_cases s with ⟨i, inbox, _, he⟩ | ⟨_, he⟩ | ⟨_, _, he⟩ | ⟨_, _, he⟩ <;> rw [he]
  · exact .inr (exec_inv (h.withInbox inbox) i)
  · exact .inl rfl
  · exact .inr (exec_inv h .sentinel)
  · exact .inr ⟨s, rfl, h⟩

/-- Settles O57. -/
theorem everyStepKeepsTheInvariants : Obligations.EveryStepKeepsTheInvariants := by
  intro s t h hstep
  obtain he | ⟨u, he, hinv⟩ := step_inv h <;> cases he.symm.trans hstep
  exact hinv

/-- Settles O59. -/
theorem noStepFaultsUnderTheInvariants : Obligations.NoStepFaultsUnderTheInvariants := by
  intro s r h hstep
  obtain he | ⟨u, he, _⟩ := step_inv h <;> cases he.symm.trans hstep

end Sys2Proof.Machine
end
